-- ==== Sys2Proof/Word.lean ====
section
/-! DEFINITION. The word types of the engine: the byte that FEED, POP and the compressed stream move
(spec R61, R63), and the 16-bit command word (R91). Every quantity is unsigned (R325). -/

namespace Sys2Proof

/-- One byte, the unit of FEED, POP and of the compressed stream (R61, R63). -/
abbrev Byte := BitVec 8

/-- One command word, the unit of the command port (R60 (a), R91). -/
abbrev CommandWord := BitVec 16

/-- A bit sequence, first bit first (R150). -/
abbrev Bits := List Bool

end Sys2Proof
end

