-- ==== Sys2Proof/Syntax.lean ====
section
/-! DEFINITION. The ten commands of the engine, one constructor per row of spec/opcode_table.json
(spec R90, R92). -/

namespace Sys2Proof

/-- A command with its immediate operand, where it has one (R90, R93). -/
inductive Instr where
  /-- NOP (R123). -/
  | nop
  /-- CINIT cls: open a compressor session of block-size class `cls` (R124). -/
  | cinit (cls : Byte)
  /-- DINIT: open a decompressor session (R125). -/
  | dinit
  /-- FEED b: one input byte (R126). -/
  | feed (b : Byte)
  /-- FEEDE: feed of the empty chunk (R127). -/
  | feede
  /-- FINISH (R130). -/
  | finish
  /-- POP: take one byte of output (R128). -/
  | pop
  /-- RDSR idx: read status register `idx` (R129). -/
  | rdsr (idx : Byte)
  /-- DROP: drop the session (R131). -/
  | drop
  /-- RESET: reset by command (R132). -/
  | reset
  deriving DecidableEq, Repr

end Sys2Proof
end

