-- ==== Sys2Proof/WellFormed.lean ====
section
/-! DEFINITION. Which commands have an encoding: the only operand the spec bounds is the index of RDSR
(spec R92, R93, R95). -/

namespace Sys2Proof

/-- The index of an RDSR selects one of the nine status registers (R36, R93). -/
def Instr.wf : Instr → Bool
  | .rdsr idx => decide (idx.toNat ≤ 8)
  | .nop => true
  | .cinit _ => true
  | .dinit => true
  | .feed _ => true
  | .feede => true
  | .finish => true
  | .pop => true
  | .drop => true
  | .reset => true

end Sys2Proof
end

