-- ==== Sys2Proof/Decode.lean ====
section
/-! DEFINITION. Decoding a command word (spec R91, R92, R93, R95, R98), and the encoder written from the
same opcode map (R92). -/

namespace Sys2Proof

/-- Why a word is an illegal command: the four cases of R98. The engine answers all of them alike. -/
inductive Illegal where
  /-- OP is 0x9 to 0xF. -/
  | reservedOpcode
  /-- FN is not 0, and the word is not in FEEDE's row (OP = 0x3, FN = 1). -/
  | badFunction
  /-- A nonzero IMM on a command without operand. -/
  | nonzeroImmediate
  /-- RDSR of an index that selects no register (R36). -/
  | noSuchRegister
  deriving DecidableEq, Repr

/-- `w[15:12]`, the major opcode (R91). -/
def opField (w : CommandWord) : BitVec 4 := w.extractLsb' 12 4

/-- `w[11:8]`, the function (R91). -/
def fnField (w : CommandWord) : BitVec 4 := w.extractLsb' 8 4

/-- `w[7:0]`, the immediate (R91, R93). -/
def immField (w : CommandWord) : Byte := w.extractLsb' 0 8

/-- A command without operand is legal only with IMM = 0 (R95, R98). -/
def withoutOperand (imm : Byte) (i : Instr) : Except Illegal Instr :=
  if imm = 0 then .ok i else .error .nonzeroImmediate

/-- Decoding, a total function of the word alone (R95); a word that it rejects is an illegal command
(R98), with the reason by name. -/
def decode (w : CommandWord) : Except Illegal Instr :=
  let imm := immField w
  if fnField w = 0 then
    match (opField w).toNat with
    | 0x0 => withoutOperand imm .nop
    | 0x1 => .ok (.cinit imm)
    | 0x2 => withoutOperand imm .dinit
    | 0x3 => .ok (.feed imm)
    | 0x4 => withoutOperand imm .finish
    | 0x5 => withoutOperand imm .pop
    | 0x6 => if imm.toNat ≤ 8 then .ok (.rdsr imm) else .error .noSuchRegister
    | 0x7 => withoutOperand imm .drop
    | 0x8 => withoutOperand imm .reset
    | _ => .error .reservedOpcode
  else if fnField w = 1 ∧ opField w = 0x3 then withoutOperand imm .feede
  else if (opField w).toNat ≤ 8 then .error .badFunction
  else .error .reservedOpcode

/-- A command word from its three fields (R91). -/
def packFields (op fn : BitVec 4) (imm : Byte) : CommandWord := op ++ fn ++ imm

/-- The word of a command, from the opcode map (R92). -/
def encode : Instr → CommandWord
  | .nop => packFields 0x0 0x0 0
  | .cinit cls => packFields 0x1 0x0 cls
  | .dinit => packFields 0x2 0x0 0
  | .feed b => packFields 0x3 0x0 b
  | .feede => packFields 0x3 0x1 0
  | .finish => packFields 0x4 0x0 0
  | .pop => packFields 0x5 0x0 0
  | .rdsr idx => packFields 0x6 0x0 idx
  | .drop => packFields 0x7 0x0 0
  | .reset => packFields 0x8 0x0 0

/-- The `match` column of R92's opcode map. -/
def rowMatch : Instr → CommandWord
  | .nop => 0x0000
  | .cinit _ => 0x1000
  | .dinit => 0x2000
  | .feed _ => 0x3000
  | .feede => 0x3100
  | .finish => 0x4000
  | .pop => 0x5000
  | .rdsr _ => 0x6000
  | .drop => 0x7000
  | .reset => 0x8000

/-- The `mask` column of R92's opcode map. -/
def rowMask : Instr → CommandWord
  | .nop => 0xFFFF
  | .cinit _ => 0xFF00
  | .dinit => 0xFFFF
  | .feed _ => 0xFF00
  | .feede => 0xFFFF
  | .finish => 0xFFFF
  | .pop => 0xFFFF
  | .rdsr _ => 0xFF00
  | .drop => 0xFFFF
  | .reset => 0xFFFF

/-- The command word whose low `nbits` bits are `w`'s and whose other bits are 0. A command word is
moved whole and has no byte order (R65). -/
def tableWord (nbits w : Nat) : CommandWord := BitVec.ofNat 16 (w % 2 ^ nbits)

/-- The command the decoder reads from a table row's word; every command has 16 bits (R91), so there is
none in a longer one. -/
def decodeTableWord (nbits w : Nat) : Option Instr :=
  if nbits ≤ 16 then (decode (tableWord nbits w)).toOption else none

end Sys2Proof
end

