-- ==== Sys2Proof/Config.lean ====
section
/-! DEFINITION. The two implementation parameters of an instance (spec R5, 92_eei_decisions.md "Open
parameters"). They are fixed for an instance and are not session state (R40). -/

namespace Sys2Proof

/-- The parameters of one engine instance (R5). A model takes them as arguments; here they travel in a
field of `State` that no step writes (log entry 1). -/
structure Config where
  /-- MAXCLASS, the largest supported block-size class (R5). -/
  maxClass : Nat
  /-- OCAP, the capacity of DOUT in bytes; `none` is the infinite OCAP that R5 allows. -/
  ocap : Option Nat
  deriving DecidableEq, Repr

/-- The default instance of R5: MAXCLASS = 11, OCAP = 131072. -/
def defaultConfig : Config := { maxClass := 11, ocap := some 131072 }

end Sys2Proof
end

