-- ==== Sys2Proof/Machine/Constants.lean ====
section
/-! DEFINITION. The constants and derived functions of spec R5 and R6. -/

namespace Sys2Proof.Machine

/-- `BS(c) = 16 * 2^c`, the block size of class `c` (R6). -/
def blockSize (c : Nat) : Nat := 16 * 2 ^ c

/-- PAYMIN, the least payload length a block header may announce (R6). -/
def payMin : Nat := 163

/-- `PAYMAX(bs)`, the greatest payload length a block header may announce (R6). -/
def payMax (bs : Nat) : Nat := 164 + 3 * bs

/-- `MAXOUT(c)`, the most one command pushes in a session of class `c` (R5, R250). -/
def maxOut (c : Nat) : Nat := 5 + (7 + payMax (blockSize c) + 4) + 14

/-- STREAM_MAGIC (R6). -/
def streamMagic : List Byte := [0x42, 0x57, 0x53, 0x31]

/-- BLOCK_MAGIC (R6). -/
def blockMagic : List Byte := [0x42, 0x4B]

/-- END_MAGIC (R6). -/
def endMagic : List Byte := [0x45, 0x44]

/-- EOB, the end-of-block symbol; the alphabet is `0 .. EOB`, NSYM = 257 symbols (R6, R200). -/
def eob : Nat := 256

/-- ZRUN, the zero-run symbol (R6, R200). -/
def zrun : Nat := 0

/-- The parameters an instance may have (R5): MAXCLASS in 0..11, OCAP at least MAXOUT(MAXCLASS) or
infinite. -/
def configOk (cfg : Config) : Prop :=
  cfg.maxClass ≤ 11 ∧ ∀ cap, cfg.ocap = some cap → maxOut cfg.maxClass ≤ cap

end Sys2Proof.Machine
end

