-- ==== Sys2Proof/Machine/State.lean ====
section
/-! DEFINITION. The state of one engine (spec R22 to R35), its two ports (R60) and its parameters (R5), the
reasons a step may stop, and the state after reset (R39). -/

namespace Sys2Proof.Machine

/-- MODE, the kind of session (R23); its 2-bit codes are `Mode.code`. The value 3 never occurs. -/
inductive Mode where
  | none
  | comp
  | decomp
  deriving DecidableEq, Repr

/-- PSTATE, the parser's state (R30); its 3-bit codes are `PState.code`. Values 6 and 7 never occur. -/
inductive PState where
  | expectStreamHeader
  | expectBlockHeader
  | expectBlockBody
  | expectFooter
  | done
  | error
  deriving DecidableEq, Repr

/-- RSTAT, the response status (R340); its 4-bit codes are `Status.code`. The other codes are never
returned. -/
inductive Status where
  | ok
  | invalidState
  | corruptStream
  | truncatedStream
  | unsupportedBlockSize
  | outputFull
  | outputEmpty
  | illegalCommand
  deriving DecidableEq, Repr

/-- The four errors of a session, the only statuses that go through error entry (R340, R343). -/
inductive SessionError where
  | invalidState
  | corruptStream
  | truncatedStream
  | unsupportedBlockSize
  deriving DecidableEq, Repr

/-- The detail of an error (R341); its 4-bit codes are `Detail.code`. -/
inductive Detail where
  | noDetail
  | badStreamMagic
  | badBlockMagic
  | badLength
  | blockCrc
  | badOrigin
  | badTable
  | badSymbolStream
  | lengthMismatch
  | badPadding
  | footerCrc
  | footerCount
  | trailingData
  | blockAfterShort
  deriving DecidableEq, Repr

/-- One response: RSTAT and RDATA (R60 (b), R94). -/
structure Response where
  rstat : Status
  rdata : BitVec 32
  deriving DecidableEq, Repr

/-- The engine: the session registers of R22 to R34, the output queue of R35, and, as the model's own
fields, the instance's parameters (R5) and the two ports of R60. -/
structure State where
  /-- MAXCLASS and OCAP of this instance (R5, R40): no step writes them (log entry 1). -/
  cfg : Config
  /-- MODE (R23). -/
  mode : Mode
  /-- FIN (R24). -/
  fin : Bool
  /-- ERR (R25). -/
  err : Bool
  /-- ERRCODE (R26). -/
  errcode : BitVec 4
  /-- ERRDET (R26). -/
  errdet : BitVec 4
  /-- CLS (R27). -/
  cls : BitVec 8
  /-- HDRSENT (R28). -/
  hdrsent : Bool
  /-- SHORT (R29). -/
  short : Bool
  /-- PSTATE (R30). -/
  pstate : PState
  /-- BUF, the compressor's accumulation buffer (R31). -/
  buf : List Byte
  /-- GBUF, the decompressor's gather buffer (R32). -/
  gbuf : List Byte
  /-- BLKN, the announced original length (R32). -/
  blkn : BitVec 16
  /-- BLKP, the announced payload length (R32). -/
  blkp : BitVec 24
  /-- CRCREG, before the final inversion (R33). -/
  crcreg : BitVec 32
  /-- TOTALIN (R34). -/
  totalin : BitVec 64
  /-- TOTALOUT (R34). -/
  totalout : BitVec 64
  /-- DOUT, the output queue, front first (R35). -/
  dout : List Byte
  /-- The command port: the words the host has presented and the engine has not executed, in order
  (R60 (a), R67; log entry 2). -/
  cmds : List CommandWord
  /-- The response port: the response to the last command executed, if there was one (R60 (b), R94; log
  entry 3). -/
  rsp : Option Response
  deriving DecidableEq, Repr

/-- The engine has no fault: every state and command word has one next state and one response (R392), so
no constructor stands here and no meaning raises one. -/
inductive Fault where
  deriving DecidableEq, Repr

/-- Why the model gives a command no meaning. -/
inductive Refusal where
  /-- Raised only by an arm of `exec` for a command that the model has not reached; no arm does so.
  Safe: the model stops where the engine goes on. -/
  | notModelled (mnemonic : String)
  deriving DecidableEq, Repr

/-- The state of an instance right after reset (R39, R380), with no command presented and no response
given. -/
def State.resetOf (cfg : Config) : State where
  cfg := cfg
  mode := .none
  fin := false
  err := false
  errcode := 0
  errdet := 0
  cls := 0
  hdrsent := false
  short := false
  pstate := .expectStreamHeader
  buf := []
  gbuf := []
  blkn := 0
  blkp := 0
  crcreg := 0xFFFFFFFF
  totalin := 0
  totalout := 0
  dout := []
  cmds := []
  rsp := none

/-- The default instance right after reset (R5, R39, R380). -/
def State.reset : State := State.resetOf defaultConfig

end Sys2Proof.Machine
end

