-- ==== Sys2Proof/Machine/Flags.lean ====
section
/-! DEFINITION. The numeric codes of MODE, PSTATE, the response statuses and the details (spec R23, R30, R340,
R341), and the packing of the flags into STATUS and ERRINFO (R36). -/

namespace Sys2Proof.Machine

/-- The 2-bit code of MODE (R23). -/
def Mode.code : Mode → BitVec 2
  | .none => 0
  | .comp => 1
  | .decomp => 2

/-- The 3-bit code of PSTATE (R30). -/
def PState.code : PState → BitVec 3
  | .expectStreamHeader => 0
  | .expectBlockHeader => 1
  | .expectBlockBody => 2
  | .expectFooter => 3
  | .done => 4
  | .error => 5

/-- The 4-bit code of RSTAT (R340). -/
def Status.code : Status → BitVec 4
  | .ok => 0
  | .invalidState => 1
  | .corruptStream => 2
  | .truncatedStream => 3
  | .unsupportedBlockSize => 4
  | .outputFull => 8
  | .outputEmpty => 9
  | .illegalCommand => 15

/-- The status with which an error is answered (R340, R343). -/
def SessionError.status : SessionError → Status
  | .invalidState => .invalidState
  | .corruptStream => .corruptStream
  | .truncatedStream => .truncatedStream
  | .unsupportedBlockSize => .unsupportedBlockSize

/-- The 4-bit code of ERRDET (R341). -/
def Detail.code : Detail → BitVec 4
  | .noDetail => 0
  | .badStreamMagic => 1
  | .badBlockMagic => 2
  | .badLength => 3
  | .blockCrc => 4
  | .badOrigin => 5
  | .badTable => 6
  | .badSymbolStream => 7
  | .lengthMismatch => 8
  | .badPadding => 9
  | .footerCrc => 10
  | .footerCount => 11
  | .trailingData => 12
  | .blockAfterShort => 13

/-- Status register STATUS (R36): zeros, CLS, zeros, SHORT, HDRSENT, PSTATE, ERR, FIN, MODE. -/
def statusWord (s : State) : BitVec 32 :=
  (0 : BitVec 8) ++ s.cls ++ (0 : BitVec 7) ++ BitVec.ofBool s.short ++ BitVec.ofBool s.hdrsent
    ++ s.pstate.code ++ BitVec.ofBool s.err ++ BitVec.ofBool s.fin ++ s.mode.code

/-- Status register ERRINFO (R36): zeros, ERRDET, zeros, ERRCODE. -/
def errinfoWord (s : State) : BitVec 32 := (0 : BitVec 20) ++ s.errdet ++ (0 : BitVec 4) ++ s.errcode

end Sys2Proof.Machine
end

