-- ==== Sys2Proof/Machine/BitIO.lean ====
section
/-! DEFINITION. Bit writer and bit reader (spec R64, R150 to R157), and the big-endian byte strings of R8
and R63. -/

namespace Sys2Proof.Machine

/-- `bitsof(v, w)`: the `w` bits of `v`, most significant first (R150). -/
def bitsOf (v : Nat) : Nat → Bits
  | 0 => []
  | w + 1 => v.testBit w :: bitsOf v w

/-- `from_bits`: the first bit is the most significant (R155). -/
def fromBits (bits : Bits) : Nat := bits.foldl (fun v b => 2 * v + b.toNat) 0

/-- `pack`: eight bits a byte, the earlier bit the more significant (R150). It is used on bit sequences
of whole bytes only. -/
def pack : Bits → List Byte
  | b7 :: b6 :: b5 :: b4 :: b3 :: b2 :: b1 :: b0 :: rest =>
      BitVec.ofNat 8 (fromBits [b7, b6, b5, b4, b3, b2, b1, b0]) :: pack rest
  | _ => []

/-- `unpack`: the inverse of `pack` (R150). -/
def unpack (bytes : List Byte) : Bits := bytes.flatMap fun b => bitsOf b.toNat 8

/-- `put(v, w)`: append a `w`-bit value to the writer's bit sequence (R151). -/
def put (wb : Bits) (v w : Nat) : Bits := wb ++ bitsOf v w

/-- Several `put`s in order, each of a pair `(v, w)` (R151). -/
def putEach (fields : List (Nat × Nat)) (wb : Bits) : Bits := fields.foldl (fun wb p => put wb p.1 p.2) wb

/-- The number of padding bits that end a stream of `n` bits (R153). -/
def padding (n : Nat) : Nat := (8 - n % 8) % 8

/-- `flush()`: the packed bytes, zero-padded, and the encoded bit length ENCBITS (R153). -/
def flush (wb : Bits) : List Byte × Nat :=
  (pack (wb ++ List.replicate (padding wb.length) false), wb.length)

/-- The first `w` bits and the rest, or none if there are fewer. -/
def splitBits : Nat → Bits → Option (Bits × Bits)
  | 0, bits => some ([], bits)
  | _ + 1, [] => none
  | w + 1, b :: bits => (splitBits w bits).map fun (head, rest) => (b :: head, rest)

/-- `get(w)`: read a `w`-bit value (R155). The reader is held as its unread bits `RB[RP ..)`; none is
underflow. -/
def get (w : Nat) (reader : Bits) : Option (Nat × Bits) :=
  (splitBits w reader).map fun (head, rest) => (fromBits head, rest)

/-- Several `get`s in order, one of each width (R155). -/
def getEach : List Nat → Bits → Option (List Nat × Bits)
  | [], reader => some ([], reader)
  | w :: widths, reader =>
      (get w reader).bind fun (v, reader) =>
        (getEach widths reader).map fun (vs, reader) => (v :: vs, reader)

/-- `remaining()` (R155). -/
def remaining (reader : Bits) : Nat := reader.length

/-- `be_N(v)` for `N = 8 * k`: `k` bytes, most significant first (R8, R63). -/
def beBytes : Nat → Nat → List Byte
  | 0, _ => []
  | k + 1, v => BitVec.ofNat 8 (v / 256 ^ k) :: beBytes k v

/-- `from_be(s)`, the inverse, for any length (R8). -/
def fromBe (s : List Byte) : Nat := s.foldl (fun v b => 256 * v + b.toNat) 0

/-- `s[i..j)` (R8). -/
def slice (s : List Byte) (i j : Nat) : List Byte := (s.drop i).take (j - i)

end Sys2Proof.Machine
end

