-- ==== Sys2Proof/Machine/Transform.lean ====
section
/-! DEFINITION. The block transform stage: rotation sort, move-to-front and run-length coding, forward and
inverse (spec R170 to R182). -/

namespace Sys2Proof.Machine

/-- `rot(B, i)` (R171). -/
def rotation (block : List Byte) (i : Nat) : List Byte := block.drop i ++ block.take i

/-- Lexicographic order of byte sequences, bytes as unsigned numbers (R171, R329). -/
def compareBytes : List Byte → List Byte → Ordering
  | [], [] => .eq
  | [], _ :: _ => .lt
  | _ :: _, [] => .gt
  | a :: as, b :: bs =>
      if a.toNat < b.toNat then .lt
      else if b.toNat < a.toNat then .gt
      else compareBytes as bs

/-- The order of the pairs `(rot(B, i), i)`: the rotation first, then the smaller index (R171). -/
def rotationLe (block : List Byte) (i j : Nat) : Bool :=
  match compareBytes (rotation block i) (rotation block j) with
  | .lt => true
  | .eq => decide (i ≤ j)
  | .gt => false

/-- The rotation order `ord` of a block (R171). -/
def rotationOrder (block : List Byte) : List Nat :=
  (List.range block.length).insertionSort (fun i j => rotationLe block i j = true)

/-- `Bwt(B)`: the last bytes of the sorted rotations and the rank of rotation 0 (R172). -/
def bwt (block : List Byte) : List Byte × Nat :=
  let n := block.length
  let ord := rotationOrder block
  (ord.map fun i => block.getD ((i + n - 1) % n) 0, ord.idxOf 0)

/-- The order of the pairs `(L[j], j)` (R173). -/
def byteIndexLe (p q : Byte × Nat) : Bool :=
  decide (p.1.toNat < q.1.toNat) || (decide (p.1.toNat = q.1.toNat) && decide (p.2 ≤ q.2))

/-- `P`, the stable sort of the last column (R173). -/
def lastColumnOrder (column : List Byte) : List Nat :=
  (column.zipIdx.insertionSort (fun p q => byteIndexLe p q = true)).map Prod.snd

/-- The loop of `Ibwt`: `t` steps of `k <- P[k]; B[t] <- L[k]` (R173). -/
def ibwtWalk (column : List Byte) (order : List Nat) : Nat → Nat → List Byte
  | 0, _ => []
  | t + 1, k =>
      let k := order.getD k 0
      column.getD k 0 :: ibwtWalk column order t k

/-- `Ibwt(L, I)` (R173). -/
def ibwt (column : List Byte) (origin : Nat) : List Byte :=
  ibwtWalk column (lastColumnOrder column) column.length origin

/-- The recency list at the start of every block, `[0, 1, ..., 255]` (R176). -/
def initialRecency : List Byte := (List.range 256).map (BitVec.ofNat 8)

/-- Move the entry at rank `r`, which is `b`, to the front of the recency list (R177, R178). -/
def moveToFront (recency : List Byte) (r : Nat) (b : Byte) : List Byte := b :: recency.eraseIdx r

/-- The loop of `Mtf` from a given recency list (R177). -/
def mtfFrom : List Byte → List Byte → List Nat
  | _, [] => []
  | recency, b :: bytes =>
      let r := recency.idxOf b
      r :: mtfFrom (moveToFront recency r b) bytes

/-- `Mtf(L)`: ranks 0..255 (R177). -/
def mtf (bytes : List Byte) : List Nat := mtfFrom initialRecency bytes

/-- The loop of `Imtf` from a given recency list (R178). -/
def imtfFrom : List Byte → List Nat → List Byte
  | _, [] => []
  | recency, r :: ranks =>
      let b := recency.getD r 0
      b :: imtfFrom (moveToFront recency r b) ranks

/-- `Imtf(R)` (R178). -/
def imtf (ranks : List Nat) : List Byte := imtfFrom initialRecency ranks

/-- One element of the run-length stage's output (R179). -/
inductive Item where
  /-- `Lit(r)`, `1 <= r <= 255`. -/
  | lit (r : Nat)
  /-- `Run(c)`, `1 <= c <= 256`. -/
  | run (c : Nat)
  deriving DecidableEq, Repr

/-- The items of a maximal run of `z` zeros: `floor(z / 256)` items `Run(256)`, then the rest (R179). -/
def runItems (z : Nat) : List Item :=
  List.replicate (z / 256) (.run 256) ++ (if z % 256 = 0 then [] else [.run (z % 256)])

/-- `Rle` with `z` zeros of the current run already read (R179). -/
def rleFrom : Nat → List Nat → List Item
  | z, [] => runItems z
  | z, r :: ranks => if r = 0 then rleFrom (z + 1) ranks else runItems z ++ .lit r :: rleFrom 0 ranks

/-- `Rle(R)` (R179). -/
def rle (ranks : List Nat) : List Item := rleFrom 0 ranks

/-- The ranks one item stands for (R180). -/
def itemRanks : Item → List Nat
  | .lit r => [r]
  | .run c => List.replicate c 0

/-- `Unrle(items)` (R180). -/
def unrle (items : List Item) : List Nat := items.flatMap itemRanks

/-- `Transform(B)` (R170). -/
def transform (block : List Byte) : Nat × List Item :=
  let (column, origin) := bwt block
  (origin, rle (mtf column))

/-- `Untransform(I, R)` (R170). -/
def untransform (origin : Nat) (ranks : List Nat) : List Byte := ibwt (imtf ranks) origin

end Sys2Proof.Machine
end

