-- ==== Sys2Proof/Machine/Entropy.lean ====
section
/-! DEFINITION. The entropy coder: frequencies, Huffman lengths, canonical codes, the code table and the
payload, forward and inverse (spec R200 to R223). -/

namespace Sys2Proof.Machine

/-- `sym`, the symbol of an item (R200). -/
def itemSymbol : Item → Nat
  | .lit r => r
  | .run _ => zrun

/-- `Freq(items)`: the frequencies of symbols 0 to 256, EOB counted once (R201). -/
def freq (items : List Item) : List Nat :=
  (List.range 256).map (fun s => items.countP fun x => itemSymbol x == s) ++ [1]

/-- A node of the Huffman construction (R202). -/
structure Node where
  weight : Nat
  key : Nat
  symbols : List Nat
  deriving DecidableEq, Repr

/-- The order of nodes by `(weight, key)` (R202, R329). -/
def nodeLe (a b : Node) : Bool :=
  decide (a.weight < b.weight) || (decide (a.weight = b.weight) && decide (a.key ≤ b.key))

/-- One leaf per used symbol (R202). -/
def leaves (f : List Nat) : List Node :=
  (f.zipIdx.filter fun p => decide (0 < p.1)).map fun p => ⟨p.1, p.2, [p.2]⟩

/-- The node that replaces the two least ones (R202). -/
def mergeNodes (a b : Node) : Node :=
  ⟨a.weight + b.weight, min a.key b.key, a.symbols ++ b.symbols⟩

/-- `len[s] <- len[s] + 1` for every symbol of a list (R202). -/
def deepen (symbols : List Nat) (len : List Nat) : List Nat :=
  len.zipIdx.map fun p => if p.2 ∈ symbols then p.1 + 1 else p.1

/-- The loop of `Lengths` (R202). The live nodes `N` are held in ascending order of `(weight, key)`, so
the two least are the first two; the first argument bounds the number of merges. -/
def huffmanLoop : Nat → List Node → List Nat → List Nat
  | k + 1, a :: b :: rest, len =>
      huffmanLoop k (rest.orderedInsert (fun x y => nodeLe x y = true) (mergeNodes a b))
        (deepen (a.symbols ++ b.symbols) len)
  | _, _, len => len

/-- `Lengths(f)`: the code length of every symbol, 0 for an unused one (R202). -/
def lengths (f : List Nat) : List Nat :=
  let nodes := (leaves f).insertionSort (fun x y => nodeLe x y = true)
  huffmanLoop nodes.length nodes (f.map fun _ => 0)

/-- One row of the code: symbol, code length, code word (R204). -/
structure Code where
  symbol : Nat
  len : Nat
  code : Nat
  deriving DecidableEq, Repr

/-- The order of the pairs `(len[s], s)` (R204). -/
def lengthSymbolLe (p q : Nat × Nat) : Bool :=
  decide (p.1 < q.1) || (decide (p.1 = q.1) && decide (p.2 ≤ q.2))

/-- `used`: the pairs `(len[s], s)` of the used symbols, ascending (R204). -/
def usedSymbols (len : List Nat) : List (Nat × Nat) :=
  (len.zipIdx.filter fun p => decide (0 < p.1)).insertionSort (fun p q => lengthSymbolLe p q = true)

/-- The codes after one of length `l` and value `c` (R204). -/
def codesAfter : Nat → Nat → List (Nat × Nat) → List Code
  | _, _, [] => []
  | l, c, (len, s) :: rest =>
      let c := (c + 1) <<< (len - l)
      ⟨s, len, c⟩ :: codesAfter len c rest

/-- `Codes(len)`: the used symbols with their codes, in canonical order (R204). -/
def codes (len : List Nat) : List Code :=
  match usedSymbols len with
  | [] => []
  | (l, s) :: rest => ⟨s, l, 0⟩ :: codesAfter l 0 rest

/-- The row of a symbol; an unused symbol has the empty code. -/
def codeOf (table : List Code) (s : Nat) : Code :=
  (table.find? fun c => c.symbol == s).getD ⟨s, 0, 0⟩

/-- The bits of a symbol's code, most significant first (R204, R151). -/
def symbolBits (table : List Code) (s : Nat) : Bits :=
  bitsOf (codeOf table s).code (codeOf table s).len

/-- `PutTable(len)`: 257 fields of 5 bits (R205). -/
def tableBits (len : List Nat) : Bits := len.flatMap fun l => bitsOf l 5

/-- The bits of one item: its code, and for a run the 8-bit field `c - 1` (R215). -/
def itemBits (table : List Code) : Item → Bits
  | .lit r => symbolBits table r
  | .run c => symbolBits table zrun ++ bitsOf (c - 1) 8

/-- The bits of a payload before padding: ORIGIN, table, items, EOB (R215). -/
def payloadBits (block : List Byte) : Bits :=
  let (origin, items) := transform block
  let len := lengths (freq items)
  let table := codes len
  put [] origin 16 ++ tableBits len ++ items.flatMap (itemBits table) ++ symbolBits table eob

/-- `EncodePayload(B)` (R215). -/
def encodePayload (block : List Byte) : List Byte := (flush (payloadBits block)).1

/-- The Kraft sum `K` as a natural number, in units of `2^-31` (R206, R328). -/
def kraftSum (len : List Nat) : Nat := (len.map fun l => if l = 0 then 0 else 2 ^ (31 - l)).sum

/-- A table is valid when EOB has a code and Kraft equality holds (R206). -/
def tableOk (len : List Nat) : Bool := decide (len.getD eob 0 ≠ 0) && decide (kraftSum len = 2 ^ 31)

/-- `GetTable()` (R206). A payload of at least PAYMIN bytes cannot underflow here (R216); for a shorter
one, which no session reaches, see log entry 7. -/
def getTable (reader : Bits) : Except Detail (List Nat × Bits) :=
  match getEach (List.replicate (eob + 1) 5) reader with
  | none => .error .badSymbolStream
  | some (len, reader) => if tableOk len then .ok (len, reader) else .error .badTable

/-- The symbol whose code is the `l`-bit word `v`, if there is one (R221). -/
def symbolOf (table : List Code) (l v : Nat) : Option Nat :=
  (table.find? fun c => c.len == l && c.code == v).map Code.symbol

/-- The loop of `GetSymbol` after `l` bits of value `v` (R221); none is underflow. -/
def getSymbolFrom (table : List Code) : Nat → Nat → Bits → Option (Nat × Bits)
  | _, _, [] => none
  | v, l, b :: reader =>
      let v := 2 * v + b.toNat
      let l := l + 1
      match symbolOf table l v with
      | some s => some (s, reader)
      | none => getSymbolFrom table v l reader

/-- `GetSymbol(len, code)` (R221). -/
def getSymbol (table : List Code) (reader : Bits) : Option (Nat × Bits) := getSymbolFrom table 0 0 reader

/-- The decoding loop of R220: the ranks decoded and the unread bits after EOB. `room` is `n - |R|`,
the ranks still to come. Every turn reads at least one bit, so a bound of the unread bits on the turns
is never what ends the loop before an underflow does. -/
def decodeRanks (table : List Code) : Nat → Nat → Bits → Except Detail (List Nat × Bits)
  | 0, _, _ => .error .badSymbolStream
  | k + 1, room, reader =>
      match getSymbol table reader with
      | none => .error .badSymbolStream
      | some (s, reader) =>
          if s = eob then
            if room = 0 then .ok ([], reader) else .error .lengthMismatch
          else if s = zrun then
            match get 8 reader with
            | none => .error .badSymbolStream
            | some (c, reader) =>
                if room < c + 1 then .error .lengthMismatch
                else (decodeRanks table k (room - (c + 1)) reader).map fun (ranks, reader) =>
                  (List.replicate (c + 1) 0 ++ ranks, reader)
          else if room < 1 then .error .lengthMismatch
          else (decodeRanks table k (room - 1) reader).map fun (ranks, reader) => (s :: ranks, reader)

/-- The bits after EOB are fewer than eight and all zero (R220). -/
def paddingOk (reader : Bits) : Bool :=
  decide (remaining reader < 8) && decide (fromBits reader = 0)

/-- `DecodePayload(pay, n)`, the checks in R220's order. -/
def decodePayload (pay : List Byte) (n : Nat) : Except Detail (List Byte) :=
  match get 16 (unpack pay) with
  | none => .error .badSymbolStream
  | some (origin, reader) =>
      if n ≤ origin then .error .badOrigin
      else
        match getTable reader with
        | .error det => .error det
        | .ok (len, reader) =>
            match decodeRanks (codes len) (reader.length + 1) n reader with
            | .error det => .error det
            | .ok (ranks, reader) =>
                if paddingOk reader then .ok (untransform origin ranks) else .error .badPadding

end Sys2Proof.Machine
end

