-- ==== Sys2Proof/Machine/Framer.lean ====
section
/-! DEFINITION. The stream framer: CRC-32, block records, stream header, end marker and footer (spec R310 to
R321). -/

namespace Sys2Proof.Machine

/-- The generator polynomial (R316). -/
def crcPoly : BitVec 32 := 0x04C11DB7

/-- One of the eight shifts of `CrcStep` (R317). -/
def crcShift (reg : BitVec 32) : BitVec 32 :=
  if reg.getLsbD 31 then (reg <<< 1) ^^^ crcPoly else reg <<< 1

/-- `k` shifts. -/
def crcShifts : Nat → BitVec 32 → BitVec 32
  | 0, reg => reg
  | k + 1, reg => crcShifts k (crcShift reg)

/-- `CrcStep(reg, b)` (R317). -/
def crcStep (reg : BitVec 32) (b : Byte) : BitVec 32 :=
  crcShifts 8 (reg ^^^ (b.setWidth 32 <<< 24))

/-- `CrcStep` for each byte in order (R316, R280). -/
def crcSteps (reg : BitVec 32) (bytes : List Byte) : BitVec 32 := bytes.foldl crcStep reg

/-- The register's initial value and the final exclusive-or (R316). -/
def crcInit : BitVec 32 := 0xFFFFFFFF

/-- The finished checksum of a register (R33, R316). -/
def crcFinish (reg : BitVec 32) : BitVec 32 := reg ^^^ 0xFFFFFFFF

/-- `Crc32(D)` (R316). -/
def crc32 (bytes : List Byte) : BitVec 32 := crcFinish (crcSteps crcInit bytes)

/-- `StreamHeader(c)` (R311). -/
def streamHeader (cls : BitVec 8) : List Byte := streamMagic ++ [cls]

/-- `BlockHeader(n, p)` (R312). -/
def blockHeader (n p : Nat) : List Byte := blockMagic ++ beBytes 2 n ++ beBytes 3 p

/-- A record around a payload that the framer does not interpret (R313, R321). -/
def recordOf (n : Nat) (pay : List Byte) : List Byte :=
  blockHeader n pay.length ++ pay ++ beBytes 4 (crc32 pay).toNat

/-- `BlockRecord(B)` (R313). -/
def blockRecord (block : List Byte) : List Byte := recordOf block.length (encodePayload block)

/-- `EndMarker` (R314). -/
def endMarker : List Byte := endMagic

/-- `Footer(crc, total)` (R315). -/
def footer (crc : BitVec 32) (total : BitVec 64) : List Byte :=
  beBytes 4 crc.toNat ++ beBytes 8 total.toNat

/-- The blocks of an input, `bs` bytes each and the short one last (R240, R310); the first argument
bounds their number. -/
def blocksOf : Nat → Nat → List Byte → List (List Byte)
  | _, _, [] => []
  | 0, _, _ => []
  | k + 1, bs, bytes => bytes.take bs :: blocksOf k bs (bytes.drop bs)

/-- `Stream(S, c)`, the compressed stream of an input (R310, R318). -/
def stream (input : List Byte) (cls : BitVec 8) : List Byte :=
  streamHeader cls
    ++ (blocksOf input.length (blockSize cls.toNat) input).flatMap blockRecord
    ++ endMarker
    ++ footer (crc32 input) (BitVec.ofNat 64 input.length)

/-- The part of the stream that is emitted before FINISH: the header with the first full block, and the
record of every full block (R242, R248). -/
def fullBlocksPart (input : List Byte) (cls : BitVec 8) : List Byte :=
  let bs := blockSize cls.toNat
  (if input.length < bs then [] else streamHeader cls)
    ++ (blocksOf input.length bs (input.take (input.length / bs * bs))).flatMap blockRecord

end Sys2Proof.Machine
end

