-- ==== Sys2Proof/Machine/Operands.lean ====
section
/-! DEFINITION. The operand forms: the block-size class of CINIT and of a stream header, and the status
register that an RDSR index selects (spec R36, R93, R124, R129). -/

namespace Sys2Proof.Machine

/-- An instance supports the classes 0..MAXCLASS (R5, R93, R124). -/
def classSupported (cfg : Config) (cls : BitVec 8) : Bool := decide (cls.toNat ≤ cfg.maxClass)

/-- The block size of the session, `BS(CLS)` (R27). -/
def State.bs (s : State) : Nat := blockSize s.cls.toNat

/-- BUFCNT: the length of the session's buffer (R36). -/
def bufferCount (s : State) : BitVec 32 :=
  match s.mode with
  | .none => 0
  | .comp => BitVec.ofNat 32 s.buf.length
  | .decomp => BitVec.ofNat 32 s.gbuf.length

/-- The status register of an index; none for 0x09 to 0xFF, which select no register (R36). -/
def statusRegister (s : State) (idx : Byte) : Option (BitVec 32) :=
  match idx.toNat with
  | 0 => some (statusWord s)
  | 1 => some (errinfoWord s)
  | 2 => some (bufferCount s)
  | 3 => some (BitVec.ofNat 32 s.dout.length)
  | 4 => some (s.totalin.extractLsb' 0 32)
  | 5 => some (s.totalin.extractLsb' 32 32)
  | 6 => some (s.totalout.extractLsb' 0 32)
  | 7 => some (s.totalout.extractLsb' 32 32)
  | 8 => some (crcFinish s.crcreg)
  | _ => none

end Sys2Proof.Machine
end

