-- ==== Sys2Proof/Machine/Ops.lean ====
section
/-! DEFINITION. The operations that the commands share: responding, destroying the session, error entry, the
entry check, the output queue (spec R9, R70, R121, R122, R343). -/

namespace Sys2Proof.Machine

/-- `respond(st, d)`: the response of the command (R9, R94). -/
def State.respond (s : State) (st : Status) (d : BitVec 32) : State :=
  { s with rsp := some { rstat := st, rdata := d } }

/-- `ClearSession`: every session register at its reset value; DOUT stays (R121). -/
def State.clearSession (s : State) : State :=
  { s with
    mode := .none
    fin := false
    err := false
    errcode := 0
    errdet := 0
    cls := 0
    hdrsent := false
    short := false
    pstate := .expectStreamHeader
    buf := []
    gbuf := []
    blkn := 0
    blkp := 0
    crcreg := crcInit
    totalin := 0
    totalout := 0 }

/-- The hardware reset input (R380): the reset state of the same instance. The ports are left as they
are. No step does this; the RESET command has the same result (R132). -/
def State.hardwareReset (s : State) : State :=
  { State.resetOf s.cfg with cmds := s.cmds, rsp := s.rsp }

/-- The register writes of error entry (R343): the first error is kept, ERR is set, the parser of a
DECOMP session goes to Error. Nothing else changes, and there is no return from it (R347). -/
def State.markError (s : State) (e : SessionError) (det : Detail) : State :=
  { s with
    err := true
    errcode := if s.err then s.errcode else e.status.code
    errdet := if s.err then s.errdet else det.code
    pstate := if s.mode = .decomp then .error else s.pstate }

/-- `raise E(det)`: error entry, then the response `code(E), 0` (R343). -/
def State.raise (s : State) (e : SessionError) (det : Detail) : State :=
  (s.markError e det).respond e.status 0

/-- `TerminalCheck` before the body of a command (R122): with no session the response is InvalidState
and nothing changes; on a terminal session InvalidState is raised; else the body runs. -/
def State.afterTerminalCheck (s : State) (body : State → State) : State :=
  if s.mode = .none then s.respond .invalidState 0
  else if s.fin || s.err then s.raise .invalidState .noDetail
  else body s

/-- The command would push `n` bytes for which DOUT has no room; pushing nothing is never held (R70). -/
def State.holds (s : State) (n : Nat) : Bool :=
  match s.cfg.ocap with
  | none => false
  | some cap => decide (n ≠ 0) && decide (cap < s.dout.length + n)

/-- `Push(DOUT, out)`, counted in TOTALOUT (R9, R34). -/
def State.push (s : State) (out : List Byte) : State :=
  { s with dout := s.dout ++ out, totalout := s.totalout + BitVec.ofNat 64 out.length }

/-- Push and respond with the number of bytes pushed (R94). -/
def State.deliver (s : State) (out : List Byte) : State :=
  (s.push out).respond .ok (BitVec.ofNat 32 out.length)

/-- A held command: OutputFull with the number of bytes it would have pushed, nothing else (R70). -/
def State.hold (s : State) (n : Nat) : State := s.respond .outputFull (BitVec.ofNat 32 n)

/-- `TOTALIN <- trunc_64(TOTALIN + 1)` (R34, R326). -/
def State.countIn (s : State) : State := { s with totalin := s.totalin + 1 }

end Sys2Proof.Machine
end

