-- ==== Sys2Proof/Machine/Session.lean ====
section
/-! DEFINITION. The commands that open and end a session: CINIT, DINIT, DROP, RESET (spec R124, R125, R131,
R132). -/

namespace Sys2Proof.Machine

/-- CINIT cls (R124). -/
def execCinit (cls : Byte) (s : State) : Host.Outcome State Fault Refusal :=
  let opened := { s.clearSession with mode := .comp, cls := cls }
  if classSupported s.cfg cls then .next (opened.respond .ok 0)
  else .next (opened.raise .unsupportedBlockSize .noDetail)

/-- DINIT (R125). -/
def execDinit (s : State) : Host.Outcome State Fault Refusal :=
  .next ({ s.clearSession with mode := .decomp, pstate := .expectStreamHeader }.respond .ok 0)

/-- DROP (R131). -/
def execDrop (s : State) : Host.Outcome State Fault Refusal :=
  .next (s.clearSession.respond .ok 0)

/-- RESET (R132). -/
def execReset (s : State) : Host.Outcome State Fault Refusal :=
  .next ({ s.clearSession with dout := [] }.respond .ok 0)

end Sys2Proof.Machine
end

