-- ==== Sys2Proof/Machine/System.lean ====
section
/-! DEFINITION. The commands that move no data: NOP and RDSR (spec R123, R129, R353), and the answer to a word
that is no command (R98). -/

namespace Sys2Proof.Machine

/-- An illegal command word (R98, R120): IllegalCommand, no state change. -/
def illegalCommand (s : State) : State := s.respond .illegalCommand 0

/-- NOP (R123). -/
def execNop (s : State) : Host.Outcome State Fault Refusal := .next (s.respond .ok 0)

/-- RDSR idx (R129); an index that selects no register is an illegal command (R36, R98), which the
decoder has already answered. -/
def execRdsr (idx : Byte) (s : State) : Host.Outcome State Fault Refusal :=
  match statusRegister s idx with
  | some v => .next (s.respond .ok v)
  | none => .next (illegalCommand s)

end Sys2Proof.Machine
end

