-- ==== Sys2Proof/Machine/Compressor.lean ====
section
/-! DEFINITION. FEED and FINISH in a COMP session (spec R240 to R252). -/

namespace Sys2Proof.Machine

/-- The stream header, unless it has been sent (R242). -/
def State.pendingHeader (s : State) : List Byte := if s.hdrsent then [] else streamHeader s.cls

/-- The byte is accepted: the checksum and the count of a COMP session (R33, R34, R243). -/
def State.acceptOriginal (s : State) (b : Byte) : State :=
  { s.countIn with crcreg := crcStep s.crcreg b }

/-- What a FEED that completes a block pushes (R243). -/
def blockOutput (s : State) (b : Byte) : List Byte := s.pendingHeader ++ blockRecord (s.buf ++ [b])

/-- `CFeed(b)` (R243). -/
def cFeed (b : Byte) (s : State) : State :=
  if s.buf.length + 1 < s.bs then
    { s.acceptOriginal b with buf := s.buf ++ [b] }.respond .ok 0
  else
    let out := blockOutput s b
    if s.holds out.length then s.hold out.length
    else { s.acceptOriginal b with buf := [], hdrsent := true }.deliver out

/-- What a FINISH of a compressor session pushes (R246). -/
def finishOutput (s : State) : List Byte :=
  s.pendingHeader ++ (if s.buf = [] then [] else blockRecord s.buf) ++ endMarker
    ++ footer (crcFinish s.crcreg) s.totalin

/-- `CFinish` (R246). -/
def cFinish (s : State) : State :=
  if s.err then { s with fin := true }.raise .invalidState .noDetail
  else
    let out := finishOutput s
    if s.holds out.length then s.hold out.length
    else { s with buf := [], hdrsent := true, fin := true }.deliver out

end Sys2Proof.Machine
end

