-- ==== Sys2Proof/Machine/Decompressor.lean ====
section
/-! DEFINITION. FEED and FINISH in a DECOMP session: the parser (spec R270 to R296). -/

namespace Sys2Proof.Machine

/-- A malformed stream: CorruptStream with a detail (R340, R341). -/
def State.corrupt (s : State) (det : Detail) : State := s.raise .corruptStream det

/-- `DDone(b)`: a byte after the footer (R288). -/
def dDone (s : State) : State := s.countIn.corrupt .trailingData

/-- The byte is accepted into the gather buffer (R272). -/
def State.gather (s : State) (g : List Byte) : State := { s.countIn with gbuf := g }

/-- `DStreamHeader(G)`, `|G| = 5` (R274), on the state that has accepted the byte. -/
def dStreamHeader (g : List Byte) (s : State) : State :=
  if slice g 0 4 ≠ streamMagic then s.corrupt .badStreamMagic
  else
    let cls := g.getD 4 0
    if classSupported s.cfg cls then
      { s with cls := cls, gbuf := [], pstate := .expectBlockHeader }.respond .ok 0
    else s.raise .unsupportedBlockSize .noDetail

/-- `DMagic(G)`, `|G| = 2` (R275); a block magic without error keeps collecting. -/
def dMagic (g : List Byte) (s : State) : State :=
  if g = endMagic then { s with gbuf := [], pstate := .expectFooter }.respond .ok 0
  else if g = blockMagic then
    if s.short then s.corrupt .blockAfterShort else s.respond .ok 0
  else s.corrupt .badBlockMagic

/-- The lengths of a block header are in range (R277). -/
def lengthsOk (bs n p : Nat) : Bool :=
  decide (1 ≤ n) && decide (n ≤ bs) && decide (payMin ≤ p) && decide (p ≤ payMax bs)

/-- `DLengths(G)`, `|G| = 7` (R277). -/
def dLengths (g : List Byte) (s : State) : State :=
  let n := fromBe (slice g 2 4)
  let p := fromBe (slice g 4 7)
  if lengthsOk s.bs n p then
    { s with
      blkn := BitVec.ofNat 16 n
      blkp := BitVec.ofNat 24 p
      gbuf := []
      pstate := .expectBlockBody }.respond .ok 0
  else s.corrupt .badLength

/-- The checks of a complete block body, the CRC before the decoding (R280). -/
def checkBody (s : State) (g : List Byte) : Except Detail (List Byte) :=
  let p := s.blkp.toNat
  let pay := slice g 0 p
  if (crc32 pay).toNat ≠ fromBe (slice g p (p + 4)) then .error .blockCrc
  else decodePayload pay s.blkn.toNat

/-- A decoded block is released whole (R280, R281). -/
def releaseBlock (s : State) (block : List Byte) : State :=
  { s.countIn with
    crcreg := crcSteps s.crcreg block
    short := s.short || decide (s.blkn.toNat < s.bs)
    gbuf := []
    pstate := .expectBlockHeader }.deliver block

/-- `DBody(G)`, `|G| = BLKP + 4` (R280), on the state before the byte is accepted. -/
def dBody (g : List Byte) (s : State) : State :=
  match checkBody s g with
  | .error det => (s.gather g).corrupt det
  | .ok block => if s.holds block.length then s.hold block.length else releaseBlock s block

/-- `DFooter(G)`, `|G| = 12` (R286). -/
def dFooter (g : List Byte) (s : State) : State :=
  if fromBe (slice g 0 4) ≠ (crcFinish s.crcreg).toNat then s.corrupt .footerCrc
  else if fromBe (slice g 4 12) ≠ s.totalout.toNat then s.corrupt .footerCount
  else { s with gbuf := [], pstate := .done }.respond .ok 0

/-- `DFeed(b)` (R272). -/
def dFeed (b : Byte) (s : State) : State :=
  let g := s.gbuf ++ [b]
  if s.pstate = .done then dDone s
  else if s.pstate = .expectBlockBody ∧ g.length = s.blkp.toNat + 4 then dBody g s
  else if s.pstate = .expectStreamHeader ∧ g.length = 5 then dStreamHeader g (s.gather g)
  else if s.pstate = .expectBlockHeader ∧ g.length = 2 then dMagic g (s.gather g)
  else if s.pstate = .expectBlockHeader ∧ g.length = 7 then dLengths g (s.gather g)
  else if s.pstate = .expectFooter ∧ g.length = 12 then dFooter g (s.gather g)
  else (s.gather g).respond .ok 0

/-- `DFinish` (R290). -/
def dFinish (s : State) : State :=
  if s.pstate = .done then { s with fin := true }.respond .ok 0
  else { s with fin := true }.raise .truncatedStream .noDetail

end Sys2Proof.Machine
end

