-- ==== Sys2Proof/Machine/Transfer.lean ====
section
/-! DEFINITION. The commands that move data: FEED, FEEDE, FINISH, POP (spec R126, R127, R128, R130). -/

namespace Sys2Proof.Machine

/-- The body of FEED, by the kind of session (R126); with no session TerminalCheck has answered. -/
def feedBody (b : Byte) (s : State) : State :=
  match s.mode with
  | .none => s.respond .invalidState 0
  | .comp => cFeed b s
  | .decomp => dFeed b s

/-- FEED b (R126). -/
def execFeed (b : Byte) (s : State) : Host.Outcome State Fault Refusal :=
  .next (s.afterTerminalCheck (feedBody b))

/-- FEEDE (R127). -/
def execFeede (s : State) : Host.Outcome State Fault Refusal :=
  .next (s.afterTerminalCheck fun open_ => open_.respond .ok 0)

/-- FINISH (R130), with its own entry checks (R122, R346). -/
def execFinish (s : State) : Host.Outcome State Fault Refusal :=
  if s.mode = .none then .next (s.respond .invalidState 0)
  else if s.fin then .next (s.raise .invalidState .noDetail)
  else if s.mode = .comp then .next (cFinish s)
  else .next (dFinish s)

/-- POP (R128). -/
def execPop (s : State) : Host.Outcome State Fault Refusal :=
  match s.dout with
  | [] => .next (s.respond .outputEmpty 0)
  | b :: rest => .next ({ s with dout := rest }.respond .ok (b.setWidth 32))

end Sys2Proof.Machine
end

