-- ==== Sys2Proof/Machine/Dispatch.lean ====
section
/-! DEFINITION. One arm per command of the opcode map (spec R92, R120). -/

namespace Sys2Proof.Machine

def exec (i : Instr) (s : State) : Host.Outcome State Fault Refusal :=
  match i with
  | .nop => Sys2Proof.Machine.execNop s
  | .cinit cls => Sys2Proof.Machine.execCinit cls s
  | .dinit => Sys2Proof.Machine.execDinit s
  | .feed b => Sys2Proof.Machine.execFeed b s
  | .feede => Sys2Proof.Machine.execFeede s
  | .finish => Sys2Proof.Machine.execFinish s
  | .pop => Sys2Proof.Machine.execPop s
  | .rdsr idx => Sys2Proof.Machine.execRdsr idx s
  | .drop => Sys2Proof.Machine.execDrop s
  | .reset => Sys2Proof.Machine.execReset s

end Sys2Proof.Machine
end

