-- ==== Sys2Proof/Machine/Step.lean ====
section
/-! DEFINITION. One step of the engine (spec R120): take the next word from the command port, decode it, run
it. -/

namespace Sys2Proof.Machine

/-- One step (R120). The engine takes the oldest word at the command port (R67); with none there it is
idle and all state is retained (R356, R380). -/
def step (s : State) : Host.Outcome State Fault Refusal :=
  match s.cmds with
  | [] => .next s
  | w :: rest =>
      match decode w with
      | .ok i => exec i { s with cmds := rest }
      | .error _ => .next (illegalCommand { s with cmds := rest })

/-- The host presents a word at the command port, to be executed next (log entry 2). -/
def State.withFetchWord (s : State) (nbits w : Nat) : State :=
  { s with cmds := tableWord nbits w :: s.cmds }

end Sys2Proof.Machine
end

