-- ==== Sys2Proof/Machine/HostOps.lean ====
section
/-! DEFINITION. The host's side of the ports: the assembler syntax of R99, and the pseudo-instructions and API
calls of R100 as runs of commands. No step of the engine calls anything of this file. -/

namespace Sys2Proof.Machine

/-- The mnemonic of a command (R92). -/
def mnemonic : Instr → String
  | .nop => "NOP"
  | .cinit _ => "CINIT"
  | .dinit => "DINIT"
  | .feed _ => "FEED"
  | .feede => "FEEDE"
  | .finish => "FINISH"
  | .pop => "POP"
  | .rdsr _ => "RDSR"
  | .drop => "DROP"
  | .reset => "RESET"

/-- The operand of a command, where it has one (R92). -/
def operand : Instr → Option Byte
  | .cinit cls => some cls
  | .feed b => some b
  | .rdsr idx => some idx
  | .nop => none
  | .dinit => none
  | .feede => none
  | .finish => none
  | .pop => none
  | .drop => none
  | .reset => none

/-- One line of assembler: the mnemonic, then the operand as a decimal number (R99). -/
def assembler (i : Instr) : String :=
  match operand i with
  | none => mnemonic i
  | some imm => mnemonic i ++ " " ++ toString imm.toNat

/-- The state after a command (every command has one, R392). -/
def after (i : Instr) (s : State) : State :=
  match exec i s with
  | .next t => t
  | .fault _ => s
  | .refused _ => s

/-- The state after a sequence of commands (R67). -/
def afterAll (commands : List Instr) (s : State) : State := commands.foldl (fun s i => after i s) s

/-- The status of the last response (R94). -/
def lastStatus (s : State) : Option Status := s.rsp.map Response.rstat

/-- The commands that keep the session, whatever it is: all but CINIT, DINIT, DROP and RESET (R23, R121). -/
def keepsSession : Instr → Bool
  | .nop => true
  | .cinit _ => false
  | .dinit => false
  | .feed _ => true
  | .feede => true
  | .finish => true
  | .pop => true
  | .rdsr _ => true
  | .drop => false
  | .reset => false

/-- The byte that a command makes the session accept: that of a FEED on an open session, unless it is held
(R34, R70, R122). -/
def accepted (i : Instr) (s : State) : List Byte :=
  match i with
  | .feed b =>
      if s.mode ≠ .none ∧ s.fin = false ∧ s.err = false ∧ lastStatus (after i s) ≠ some .outputFull
      then [b] else []
  | _ => []

/-- The byte of the stream that the host receives from a command: what a POP returns with OK (R128). -/
def received (i : Instr) (s : State) : List Byte :=
  match i, (after i s).rsp with
  | .pop, some ⟨.ok, d⟩ => [d.setWidth 8]
  | _, _ => []

/-- What the commands of a run give, one after the other, each in the state it is executed in. -/
def alongRun (f : Instr → State → List Byte) : List Instr → State → List Byte
  | [], _ => []
  | i :: rest, s => f i s ++ alongRun f rest (after i s)

/-- `FEEDX` and `FEEDS`: one FEED a byte, FEEDE for no byte (R100). -/
def feedx (bytes : List Byte) : List Instr := if bytes = [] then [.feede] else bytes.map .feed

/-- At most `k` turns of `DRAIN` (R100). -/
def drainFor : Nat → State → List Byte × State
  | 0, s => ([], s)
  | k + 1, s =>
      let t := after .pop s
      match t.rsp with
      | some ⟨.ok, d⟩ =>
          let (bytes, u) := drainFor k t
          (d.setWidth 8 :: bytes, u)
      | _ => ([], t)

/-- `DRAIN`: POP until a POP responds OutputEmpty; the bytes returned, in order (R100). -/
def drain (s : State) : List Byte × State := drainFor (s.dout.length + 1) s

/-- `RD64 idx`: two RDSR commands, the second one the more significant half (R100, R388). -/
def rd64 (idx : Byte) (s : State) : BitVec 64 × State :=
  let t := after (.rdsr idx) s
  let u := after (.rdsr (idx + 1)) t
  let half (v : State) : BitVec 32 := (v.rsp.map Response.rdata).getD 0
  (half u ++ half t, u)

/-- What an API call returns: the bytes, the status that ended it, the state. -/
structure ApiResult where
  bytes : List Byte
  status : Option Status
  state : State
  deriving DecidableEq, Repr

/-- A FEED or FINISH; when it is held, DRAIN and the same command again (R70, R100). -/
def issue (i : Instr) (s : State) : ApiResult :=
  let t := after i s
  if lastStatus t = some .outputFull then
    let (bytes, u) := drain t
    let v := after i u
    ⟨bytes, lastStatus v, v⟩
  else ⟨[], lastStatus t, t⟩

/-- The FEEDs of a chunk; the first error ends the call and the rest is not issued (R100). -/
def issueAll : List Instr → State → ApiResult
  | [], s => ⟨[], some .ok, s⟩
  | i :: rest, s =>
      let r := issue i s
      if r.status = some .ok then
        let q := issueAll rest r.state
        ⟨r.bytes ++ q.bytes, q.status, q.state⟩
      else r

/-- A call followed by DRAIN (R100). The DRAIN is issued also when a FEED or FINISH of the call met an error,
and its bytes are returned beside the error's status: R100 does not say whether it is.
Mark: DESIGN CHOICE (log entry 14). -/
def withDrain (r : ApiResult) : ApiResult :=
  let (bytes, t) := drain r.state
  ⟨r.bytes ++ bytes, r.status, t⟩

/-- `feed(chunk)` (R90, R100); after an error it still ends with the DRAIN (log entry 14). -/
def apiFeed (chunk : List Byte) (s : State) : ApiResult := withDrain (issueAll (feedx chunk) s)

/-- `finish()` (R90, R100); after an error it still ends with the DRAIN (log entry 14). -/
def apiFinish (s : State) : ApiResult := withDrain (issueAll [.finish] s)

/-- `new_compressor(c)` (R90, R100). -/
def newCompressor (cls : Byte) (s : State) : State := after (.cinit cls) s

/-- `new_decompressor()` (R90, R100). -/
def newDecompressor (s : State) : State := after .dinit s

end Sys2Proof.Machine
end

