-- ==== Sys2Proof/Safety.lean ====
section
/-! DEFINITION. What holds between commands: the invariants of spec R38 with the bounds of R31, R32, R296 and
R327, the history of a compressor session (R38 (f), R240, R251) and what it has pushed (R248). -/

namespace Sys2Proof.Machine

/-- The bound on GBUF in each state of the parser (R32, R296). -/
def gatherBound (s : State) : Prop :=
  match s.pstate with
  | .expectStreamHeader => s.gbuf.length < 5
  | .expectBlockHeader => s.gbuf.length < 7
  | .expectBlockBody => s.gbuf.length < s.blkp.toNat + 4
  | .expectFooter => s.gbuf.length < 12
  | .done => s.gbuf = []
  | .error => s.gbuf.length ≤ payMax s.bs + 4

/-- The session registers are as ClearSession leaves them (R38 (c), R121). -/
def sessionIsClear (s : State) : Prop :=
  s.fin = false ∧ s.err = false ∧ s.errcode = 0 ∧ s.errdet = 0 ∧ s.cls = 0 ∧ s.hdrsent = false ∧
  s.short = false ∧ s.pstate = .expectStreamHeader ∧ s.blkn = 0 ∧ s.blkp = 0 ∧ s.totalin = 0 ∧
  s.totalout = 0 ∧ s.buf = [] ∧ s.gbuf = [] ∧ s.crcreg = 0xFFFFFFFF

/-- The invariants that hold after reset and after every command (R38). -/
structure Inv (s : State) : Prop where
  /-- The parameters are those of an instance (R5). -/
  params : configOk s.cfg
  /-- R38 (a). -/
  queue : ∀ cap, s.cfg.ocap = some cap → s.dout.length ≤ cap
  /-- R38 (b). -/
  errcode : s.err = false ↔ s.errcode = 0
  /-- R38 (b). -/
  errdet : s.err = false → s.errdet = 0
  /-- R38 (c). -/
  noSession : s.mode = .none → sessionIsClear s
  /-- R38 (d). -/
  compShape : s.mode = .comp → s.pstate = .expectStreamHeader ∧ s.short = false ∧ s.gbuf = []
  /-- R38 (d). -/
  compOpen : s.mode = .comp → s.err = false → s.cls.toNat ≤ s.cfg.maxClass ∧ s.buf.length < s.bs
  /-- R31, R38 (d): after FINISH or a failed CINIT the buffer is empty. -/
  compClosed : s.mode = .comp → s.fin = true ∨ s.err = true → s.buf = []
  /-- R38 (f), the count: it holds also after TOTALIN has wrapped, BS being a divisor of `2^64`. -/
  compCount : s.mode = .comp → s.err = false → s.fin = false → s.totalin.toNat % s.bs = s.buf.length
  /-- R38 (e). -/
  decompShape : s.mode = .decomp → s.hdrsent = false ∧ s.buf = []
  /-- R30, R38 (e). -/
  decompError : s.mode = .decomp → (s.pstate = .error ↔ s.err = true)
  /-- R27: CLS is 0 or the supported class of the stream header. -/
  decompClass : s.mode = .decomp → s.cls.toNat ≤ s.cfg.maxClass
  /-- R133: a session finished cleanly stands in Done. -/
  decompFinished : s.mode = .decomp → s.fin = true → s.err = false → s.pstate = .done
  /-- R32, R38 (e). -/
  decompGather : s.mode = .decomp → gatherBound s
  /-- R277, R327: the announced lengths of the record being collected. -/
  decompBody : s.mode = .decomp → s.pstate = .expectBlockBody →
    lengthsOk s.bs s.blkn.toNat s.blkp.toNat = true

/-- An open COMP session that has accepted exactly `input` (R38 (f), R240, R241, R251). -/
structure CompHistory (s : State) (input : List Byte) : Prop where
  mode : s.mode = .comp
  fin : s.fin = false
  err : s.err = false
  /-- CRCREG covers exactly the accepted bytes, in order (R33, R251). -/
  crc : s.crcreg = crcSteps crcInit input
  /-- TOTALIN counts them (R34). -/
  count : s.totalin = BitVec.ofNat 64 input.length
  /-- BUF holds those after the last block cut (R241). -/
  buffer : s.buf = input.drop (input.length / s.bs * s.bs)
  /-- The header has been sent with the first block (R242). -/
  header : s.hdrsent = decide (s.bs ≤ input.length)

/-- An open COMP session of a class that has accepted exactly `input`, with what it has pushed: `before` was
queued when it began and the host has received `sent` since (R248, R249). -/
structure CompStream (cls : Byte) (before sent input : List Byte) (s : State) : Prop where
  history : CompHistory s input
  class_ : s.cls = cls
  /-- What was queued and what the session has pushed are what was received and what is queued (R69). -/
  output : sent ++ s.dout = before ++ fullBlocksPart input cls
  /-- TOTALOUT counts what the session has pushed (R34). -/
  total : s.totalout = BitVec.ofNat 64 (fullBlocksPart input cls).length

/-- A byte sequence with one bit flipped: bit `k % 8` of byte `k / 8` (R295, R320). -/
def flipBit (bytes : List Byte) (k : Nat) : List Byte :=
  bytes.modify (k / 8) fun b => b ^^^ BitVec.ofNat 8 (2 ^ (k % 8))

/-- There is room in DOUT for `n` more bytes (R70). -/
def roomFor (s : State) (n : Nat) : Prop := ∀ cap, s.cfg.ocap = some cap → s.dout.length + n ≤ cap

end Sys2Proof.Machine
end

