-- ==== Sys2Proof/Certificates/Slice0/Obligations.lean ====
section
/-! DEFINITION. The statements about the engine, from the numbered rules of the spec. Every docstring names the
rule; what a statement covers and what it does not is said in OBLIGATIONS.json. -/

open Sys2Proof Sys2Proof.Machine

/-! ## Encoding -/

/-- Decoding the word of a well-formed command gives the command back, with its operand (R92, R93, R95). -/
def Obligations.DecodeOfEncode : Prop :=
  ∀ i : Instr, i.wf = true → decode (encode i) = .ok i

/-- A legal word is the word of the command it decodes to, and of no other (R92, R95). -/
def Obligations.EncodeOfDecode : Prop :=
  ∀ (w : CommandWord) (i : Instr), decode w = .ok i → i.wf = true ∧ encode i = w

/-- The opcode map: a word encodes a command exactly when it matches the command's row (R92). The last
clause is the one row whose match is not enough: an RDSR index above 8. -/
def Obligations.OpcodeMapSelectsCommand : Prop :=
  ∀ w : CommandWord,
    (decode w = .ok .nop ↔ w &&& 0xFFFF = 0x0000) ∧
    (∀ cls, decode w = .ok (.cinit cls) ↔ w &&& 0xFF00 = 0x1000 ∧ cls = w.setWidth 8) ∧
    (decode w = .ok .dinit ↔ w &&& 0xFFFF = 0x2000) ∧
    (∀ b, decode w = .ok (.feed b) ↔ w &&& 0xFF00 = 0x3000 ∧ b = w.setWidth 8) ∧
    (decode w = .ok .feede ↔ w &&& 0xFFFF = 0x3100) ∧
    (decode w = .ok .finish ↔ w &&& 0xFFFF = 0x4000) ∧
    (decode w = .ok .pop ↔ w &&& 0xFFFF = 0x5000) ∧
    (∀ idx, decode w = .ok (.rdsr idx) ↔
      w &&& 0xFF00 = 0x6000 ∧ idx = w.setWidth 8 ∧ idx.toNat ≤ 8) ∧
    (decode w = .ok .drop ↔ w &&& 0xFFFF = 0x7000) ∧
    (decode w = .ok .reset ↔ w &&& 0xFFFF = 0x8000) ∧
    (w &&& 0xFF00 = 0x6000 → 8 < (w.setWidth 8).toNat → decode w = .error .noSuchRegister)

/-- Of the 65536 words, 528 are legal (R95). -/
def Obligations.LegalWordsAre528 : Prop :=
  ((List.range 65536).filter fun w => (decode (BitVec.ofNat 16 w)).toOption.isSome).length = 528

/-- Words of the spec's decoding table V1 decode as it says. -/
def Obligations.SampleWordsDecode : Prop :=
  decode 0x100B = .ok (.cinit 11) ∧ decode 0x3061 = .ok (.feed 0x61) ∧ decode 0x3100 = .ok .feede ∧
  decode 0x6008 = .ok (.rdsr 8) ∧ decode 0x8000 = .ok .reset ∧
  decode 0x6009 = .error .noSuchRegister ∧ decode 0x9000 = .error .reservedOpcode

/-! ## The step -/

/-- A step runs the command that the word at the port decodes to, on the state with that word taken; the
same for a word just presented (R120). -/
def Obligations.StepRunsDecodedCommand : Prop :=
  (∀ (s : State) (w : CommandWord) (rest : List CommandWord) (i : Instr),
    s.cmds = w :: rest → decode w = .ok i → step s = exec i { s with cmds := rest }) ∧
  (∀ (s : State) (w : CommandWord) (i : Instr),
    decode w = .ok i → step (s.withFetchWord 16 w.toNat) = exec i s)

/-- An illegal word is answered IllegalCommand with RDATA 0 and changes no state, whatever the session; and
the illegal words are those R98 lists: OP 0x9 to 0xF, an FN other than 0 (FEEDE's word apart), a nonzero
IMM without operand, an RDSR index of 9 or more (R98). -/
def Obligations.IllegalWordOnlyAnswered : Prop :=
  (∀ (s : State) (w : CommandWord) (rest : List CommandWord) (e : Illegal),
    s.cmds = w :: rest → decode w = .error e →
    step s = .next { s with cmds := rest, rsp := some ⟨.illegalCommand, 0⟩ }) ∧
  (∀ w : CommandWord,
    let op := w.toNat / 4096
    let fn := w.toNat / 256 % 16
    let imm := w.toNat % 256
    (∃ e, decode w = .error e) ↔
      9 ≤ op ∨ (fn ≠ 0 ∧ ¬ (fn = 1 ∧ op = 3 ∧ imm = 0)) ∨
      (fn = 0 ∧ op ∈ [0, 2, 4, 5, 7, 8] ∧ imm ≠ 0) ∨ (fn = 0 ∧ op = 6 ∧ 9 ≤ imm))

/-- Every state has a next state, so the engine neither faults nor refuses (R392); with no command
presented it is idle and all state is retained (R356). -/
def Obligations.EngineNeverStops : Prop :=
  (∀ s : State, ∃ t, step s = .next t) ∧ (∀ s : State, s.cmds = [] → step s = .next s)

/-! ## Sessions -/

/-- NOP responds OK, 0 and writes nothing (R123). -/
def Obligations.NopOnlyAnswers : Prop :=
  ∀ s : State, exec .nop s = .next { s with rsp := some ⟨.ok, 0⟩ }

/-- CINIT drops any session and opens a compressor session, in error exactly when the class is above
MAXCLASS; DOUT stays (R121, R124). -/
def Obligations.CinitOpensOrFails : Prop :=
  ∀ (s : State) (cls : Byte),
    (cls.toNat ≤ s.cfg.maxClass →
      exec (.cinit cls) s = .next
        { State.resetOf s.cfg with
          mode := .comp, cls := cls, dout := s.dout, cmds := s.cmds, rsp := some ⟨.ok, 0⟩ }) ∧
    (s.cfg.maxClass < cls.toNat →
      exec (.cinit cls) s = .next
        { State.resetOf s.cfg with
          mode := .comp, cls := cls, err := true, errcode := 4, errdet := 0,
          dout := s.dout, cmds := s.cmds, rsp := some ⟨.unsupportedBlockSize, 0⟩ })

/-- DINIT drops any session and opens a decompressor session in ExpectStreamHeader; DOUT stays (R121,
R125). -/
def Obligations.DinitOpensDecompressor : Prop :=
  ∀ s : State,
    exec .dinit s = .next
      { State.resetOf s.cfg with
        mode := .decomp, pstate := .expectStreamHeader,
        dout := s.dout, cmds := s.cmds, rsp := some ⟨.ok, 0⟩ }

/-- DROP clears every session register and leaves DOUT (R121, R131). -/
def Obligations.DropClearsSession : Prop :=
  ∀ s : State,
    exec .drop s = .next
      { State.resetOf s.cfg with dout := s.dout, cmds := s.cmds, rsp := some ⟨.ok, 0⟩ }

/-- RESET gives exactly the reset state, DOUT empty, as the hardware reset input does (R132, R380). -/
def Obligations.ResetCommandResets : Prop :=
  ∀ s : State,
    exec .reset s = .next { State.resetOf s.cfg with cmds := s.cmds, rsp := some ⟨.ok, 0⟩ } ∧
    exec .reset s = .next { s.hardwareReset with rsp := some ⟨.ok, 0⟩ }

/-- The reset values of R39, for every instance; every status register then reads 0. -/
def Obligations.ResetStateValues : Prop :=
  ∀ cfg : Config,
    let s := State.resetOf cfg
    s.mode = .none ∧ s.fin = false ∧ s.err = false ∧ s.hdrsent = false ∧ s.short = false ∧
    s.errcode = 0 ∧ s.errdet = 0 ∧ s.cls = 0 ∧ s.pstate.code = 0 ∧ s.buf = [] ∧ s.gbuf = [] ∧
    s.blkn = 0 ∧ s.blkp = 0 ∧ s.crcreg = 0xFFFFFFFF ∧ s.totalin = 0 ∧ s.totalout = 0 ∧ s.dout = [] ∧
    ∀ idx : Byte, idx.toNat ≤ 8 → statusRegister s idx = some 0

/-- POP removes and returns the front byte; on an empty queue it responds OutputEmpty and changes
nothing (R128). -/
def Obligations.PopTakesFrontByte : Prop :=
  ∀ s : State,
    (∀ b rest, s.dout = b :: rest →
      exec .pop s = .next { s with dout := rest, rsp := some ⟨.ok, BitVec.ofNat 32 b.toNat⟩ }) ∧
    (s.dout = [] → exec .pop s = .next { s with rsp := some ⟨.outputEmpty, 0⟩ })

/-- RDSR responds with the selected register and writes nothing else; the fields of each register are
where R36 puts them, and an index above 8, which has no encoding, is an illegal command (R36, R129). -/
def Obligations.RdsrReadsRegister : Prop :=
  ∀ (s : State) (idx : Byte),
    (idx.toNat ≤ 8 → ∃ v : BitVec 32,
      exec (.rdsr idx) s = .next { s with rsp := some ⟨.ok, v⟩ } ∧
      (idx = 0 → v.toNat = s.mode.code.toNat + 4 * s.fin.toNat + 8 * s.err.toNat
        + 16 * s.pstate.code.toNat + 128 * s.hdrsent.toNat + 256 * s.short.toNat
        + 65536 * s.cls.toNat) ∧
      (idx = 1 → v.toNat = s.errcode.toNat + 256 * s.errdet.toNat) ∧
      (idx = 2 → v.toNat = (match s.mode with
        | .none => 0
        | .comp => s.buf.length
        | .decomp => s.gbuf.length) % 2 ^ 32) ∧
      (idx = 3 → v.toNat = s.dout.length % 2 ^ 32) ∧
      (idx = 4 → v.toNat = s.totalin.toNat % 2 ^ 32) ∧
      (idx = 5 → v.toNat = s.totalin.toNat / 2 ^ 32) ∧
      (idx = 6 → v.toNat = s.totalout.toNat % 2 ^ 32) ∧
      (idx = 7 → v.toNat = s.totalout.toNat / 2 ^ 32) ∧
      (idx = 8 → v = s.crcreg ^^^ 0xFFFFFFFF)) ∧
    (8 < idx.toNat → exec (.rdsr idx) s = .next { s with rsp := some ⟨.illegalCommand, 0⟩ })

/-! ## The entry checks and error entry -/

/-- FEED where there is no session, or the session is terminal: InvalidState; with no session nothing is
marked, and a session's first error is kept (R122, R343). -/
def Obligations.FeedRefusedUnlessOpen : Prop :=
  ∀ (s : State) (b : Byte),
    (s.mode = .none → exec (.feed b) s = .next { s with rsp := some ⟨.invalidState, 0⟩ }) ∧
    (s.mode ≠ .none → s.err = true →
      exec (.feed b) s = .next
        { s with
          pstate := if s.mode = .decomp then .error else s.pstate
          rsp := some ⟨.invalidState, 0⟩ }) ∧
    (s.mode ≠ .none → s.err = false → s.fin = true →
      exec (.feed b) s = .next
        { s with
          err := true, errcode := 1, errdet := 0
          pstate := if s.mode = .decomp then .error else s.pstate
          rsp := some ⟨.invalidState, 0⟩ })

/-- FEEDE passes the same entry check and then only responds OK (R122, R127). -/
def Obligations.FeedeChecksAndAnswers : Prop :=
  ∀ s : State,
    (s.mode = .none → exec .feede s = .next { s with rsp := some ⟨.invalidState, 0⟩ }) ∧
    (s.mode ≠ .none → s.err = true →
      exec .feede s = .next
        { s with
          pstate := if s.mode = .decomp then .error else s.pstate
          rsp := some ⟨.invalidState, 0⟩ }) ∧
    (s.mode ≠ .none → s.err = false → s.fin = true →
      exec .feede s = .next
        { s with
          err := true, errcode := 1, errdet := 0
          pstate := if s.mode = .decomp then .error else s.pstate
          rsp := some ⟨.invalidState, 0⟩ }) ∧
    (s.mode ≠ .none → s.err = false → s.fin = false →
      exec .feede s = .next { s with rsp := some ⟨.ok, 0⟩ })

/-- FINISH with no session, and a second FINISH: InvalidState (R130). -/
def Obligations.FinishRefusedWithoutSessionOrTwice : Prop :=
  ∀ s : State,
    (s.mode = .none → exec .finish s = .next { s with rsp := some ⟨.invalidState, 0⟩ }) ∧
    (s.mode ≠ .none → s.fin = true → s.err = true →
      exec .finish s = .next
        { s with
          pstate := if s.mode = .decomp then .error else s.pstate
          rsp := some ⟨.invalidState, 0⟩ }) ∧
    (s.mode ≠ .none → s.fin = true → s.err = false →
      exec .finish s = .next
        { s with
          err := true, errcode := 1, errdet := 0
          pstate := if s.mode = .decomp then .error else s.pstate
          rsp := some ⟨.invalidState, 0⟩ })

/-- No command but those that start, drop or reset a session clears an error or changes what the first
error recorded (R25, R26, R347). -/
def Obligations.FirstErrorIsKept : Prop :=
  ∀ (i : Instr) (s t : State), s.err = true → exec i s = .next t →
    (∀ cls, i ≠ .cinit cls) → i ≠ .dinit → i ≠ .drop → i ≠ .reset →
    t.err = true ∧ t.errcode = s.errcode ∧ t.errdet = s.errdet

/-- MODE is written by CINIT (to COMP), DINIT (to DECOMP), DROP and RESET (to NONE) only (R23). -/
def Obligations.ModeWrittenBySessionCommandsOnly : Prop :=
  ∀ (i : Instr) (s t : State), exec i s = .next t →
    t.mode = match i with
      | .cinit _ => .comp
      | .dinit => .decomp
      | .drop => .none
      | .reset => .none
      | _ => s.mode

/-- Which command can give which status; an illegal word gives IllegalCommand (R348). -/
def Obligations.StatusOfEachCommand : Prop :=
  (∀ (s t : State) (w : CommandWord) (rest : List CommandWord) (e : Illegal),
    s.cmds = w :: rest → decode w = .error e → step s = .next t →
    lastStatus t = some .illegalCommand) ∧
  ∀ (i : Instr) (s t : State), i.wf = true → exec i s = .next t →
    ∃ st d, t.rsp = some ⟨st, d⟩ ∧ st ∈ (match i, s.mode with
      | .cinit _, _ => [Status.ok, .unsupportedBlockSize]
      | .pop, _ => [.ok, .outputEmpty]
      | .feed _, .none => [.invalidState]
      | .feed _, .comp => [.ok, .invalidState, .outputFull]
      | .feed _, .decomp =>
          [.ok, .invalidState, .corruptStream, .unsupportedBlockSize, .outputFull]
      | .feede, .none => [.invalidState]
      | .feede, _ => [.ok, .invalidState]
      | .finish, .none => [.invalidState]
      | .finish, .comp => [.ok, .invalidState, .outputFull]
      | .finish, .decomp => [.ok, .invalidState, .truncatedStream]
      | _, _ => [.ok])

/-! ## FEED and FINISH in a compressor session -/

/-- A FEED that does not complete a block buffers the byte and counts it (R243). -/
def Obligations.CompFeedBuffersByte : Prop :=
  ∀ (s : State) (b : Byte), s.mode = .comp → s.fin = false → s.err = false →
    s.buf.length + 1 < 16 * 2 ^ s.cls.toNat →
    exec (.feed b) s = .next
      { s with
        buf := s.buf ++ [b]
        crcreg := crcStep s.crcreg b
        totalin := s.totalin + 1
        rsp := some ⟨.ok, 0⟩ }

/-- A FEED that completes a block pushes the block's record, behind the stream header if that has not
been sent; where there is no room it is held and changes nothing (R242, R243, R70). -/
def Obligations.CompFeedCutsBlock : Prop :=
  ∀ (s : State) (b : Byte), s.mode = .comp → s.fin = false → s.err = false →
    16 * 2 ^ s.cls.toNat ≤ s.buf.length + 1 →
    let out := (if s.hdrsent then [] else [0x42, 0x57, 0x53, 0x31, s.cls]) ++ blockRecord (s.buf ++ [b])
    (roomFor s out.length →
      exec (.feed b) s = .next
        { s with
          buf := []
          hdrsent := true
          crcreg := crcStep s.crcreg b
          totalin := s.totalin + 1
          dout := s.dout ++ out
          totalout := s.totalout + BitVec.ofNat 64 out.length
          rsp := some ⟨.ok, BitVec.ofNat 32 out.length⟩ }) ∧
    (¬ roomFor s out.length →
      exec (.feed b) s = .next { s with rsp := some ⟨.outputFull, BitVec.ofNat 32 out.length⟩ })

/-- FINISH of a compressor session: the short block if there is one, end marker and footer, behind the
stream header if that has not been sent; held where there is no room; InvalidState, with FIN set, where
the session's CINIT failed (R246). -/
def Obligations.CompFinishClosesStream : Prop :=
  ∀ s : State, s.mode = .comp → s.fin = false →
    let out := (if s.hdrsent then [] else [0x42, 0x57, 0x53, 0x31, s.cls])
      ++ (if s.buf = [] then [] else blockRecord s.buf) ++ [0x45, 0x44]
      ++ (beBytes 4 (s.crcreg ^^^ 0xFFFFFFFF).toNat ++ beBytes 8 s.totalin.toNat)
    (s.err = true →
      exec .finish s = .next { s with fin := true, rsp := some ⟨.invalidState, 0⟩ }) ∧
    (s.err = false → roomFor s out.length →
      exec .finish s = .next
        { s with
          buf := []
          hdrsent := true
          fin := true
          dout := s.dout ++ out
          totalout := s.totalout + BitVec.ofNat 64 out.length
          rsp := some ⟨.ok, BitVec.ofNat 32 out.length⟩ }) ∧
    (s.err = false → ¬ roomFor s out.length →
      exec .finish s = .next { s with rsp := some ⟨.outputFull, BitVec.ofNat 32 out.length⟩ })

/-- CINIT starts an empty session, every command but those that start, drop or reset a session keeps it, and
an executed FINISH closes it: CRCREG, TOTALIN, BUF, HDRSENT, TOTALOUT and all bytes pushed are functions of
the class and of the bytes accepted so far, whatever NOP, FEEDE, POP, RDSR and held commands stand in between
(R38 (f), R241, R248, R249, R251). -/
def Obligations.CompressorStateIsItsHistory : Prop :=
  (∀ (s t : State) (cls : Byte), cls.toNat ≤ s.cfg.maxClass → exec (.cinit cls) s = .next t →
    CompStream cls s.dout [] [] t) ∧
  (∀ (i : Instr) (s t : State) (cls : Byte) (before sent input : List Byte),
    CompStream cls before sent input s → keepsSession i = true → exec i s = .next t →
    (t.fin = false → CompStream cls before (sent ++ received i s) (input ++ accepted i s) t) ∧
    (t.fin = true → i = .finish ∧ t.err = false ∧ lastStatus t = some .ok ∧
      sent ++ t.dout = before ++ stream input cls ∧
      t.totalout = BitVec.ofNat 64 (stream input cls).length)) ∧
  (∀ (s t : State) (input : List Byte) (b : Byte), CompHistory s input →
    exec (.feed b) s = .next t → lastStatus t ≠ some .outputFull → CompHistory t (input ++ [b]))

/-! ## FEED and FINISH in a decompressor session -/

/-- A FEED that completes no field only gathers its byte (R272). -/
def Obligations.DecompFeedGathersByte : Prop :=
  ∀ (s : State) (b : Byte), s.mode = .decomp → s.fin = false → s.err = false →
    (match s.pstate with
      | .expectStreamHeader => s.gbuf.length + 1 < 5
      | .expectBlockHeader => s.gbuf.length + 1 < 7 ∧ s.gbuf.length + 1 ≠ 2
      | .expectBlockBody => s.gbuf.length + 1 < s.blkp.toNat + 4
      | .expectFooter => s.gbuf.length + 1 < 12
      | .done => False
      | .error => False) →
    exec (.feed b) s = .next
      { s with gbuf := s.gbuf ++ [b], totalin := s.totalin + 1, rsp := some ⟨.ok, 0⟩ }

/-- The fifth byte of the stream header: the magic is checked before the class (R274). -/
def Obligations.StreamHeaderChecked : Prop :=
  ∀ (s : State) (b : Byte), s.mode = .decomp → s.fin = false → s.err = false →
    s.pstate = .expectStreamHeader → s.gbuf.length = 4 →
    (s.gbuf ≠ [0x42, 0x57, 0x53, 0x31] →
      exec (.feed b) s = .next
        { s with
          gbuf := s.gbuf ++ [b], totalin := s.totalin + 1
          err := true, errcode := 2, errdet := 1, pstate := .error
          rsp := some ⟨.corruptStream, 0⟩ }) ∧
    (s.gbuf = [0x42, 0x57, 0x53, 0x31] → s.cfg.maxClass < b.toNat →
      exec (.feed b) s = .next
        { s with
          gbuf := s.gbuf ++ [b], totalin := s.totalin + 1
          err := true, errcode := 4, errdet := 0, pstate := .error
          rsp := some ⟨.unsupportedBlockSize, 0⟩ }) ∧
    (s.gbuf = [0x42, 0x57, 0x53, 0x31] → b.toNat ≤ s.cfg.maxClass →
      exec (.feed b) s = .next
        { s with
          cls := b, gbuf := [], totalin := s.totalin + 1, pstate := .expectBlockHeader
          rsp := some ⟨.ok, 0⟩ })

/-- The second byte in ExpectBlockHeader: end marker, block magic, block magic after a short block, or
neither (R275). -/
def Obligations.BlockMagicChecked : Prop :=
  ∀ (s : State) (b : Byte), s.mode = .decomp → s.fin = false → s.err = false →
    s.pstate = .expectBlockHeader → s.gbuf.length = 1 →
    (s.gbuf ++ [b] = [0x45, 0x44] →
      exec (.feed b) s = .next
        { s with
          gbuf := [], totalin := s.totalin + 1, pstate := .expectFooter, rsp := some ⟨.ok, 0⟩ }) ∧
    (s.gbuf ++ [b] = [0x42, 0x4B] → s.short = false →
      exec (.feed b) s = .next
        { s with gbuf := s.gbuf ++ [b], totalin := s.totalin + 1, rsp := some ⟨.ok, 0⟩ }) ∧
    (s.gbuf ++ [b] = [0x42, 0x4B] → s.short = true →
      exec (.feed b) s = .next
        { s with
          gbuf := s.gbuf ++ [b], totalin := s.totalin + 1
          err := true, errcode := 2, errdet := 13, pstate := .error
          rsp := some ⟨.corruptStream, 0⟩ }) ∧
    (s.gbuf ++ [b] ≠ [0x45, 0x44] → s.gbuf ++ [b] ≠ [0x42, 0x4B] →
      exec (.feed b) s = .next
        { s with
          gbuf := s.gbuf ++ [b], totalin := s.totalin + 1
          err := true, errcode := 2, errdet := 2, pstate := .error
          rsp := some ⟨.corruptStream, 0⟩ })

/-- The seventh byte of a block header: ORIGLEN in 1..BS and PAYLEN in 163..164+3*BS, or BadLength
(R277). -/
def Obligations.BlockLengthsChecked : Prop :=
  ∀ (s : State) (b n1 n0 p2 p1 : Byte), s.mode = .decomp → s.fin = false → s.err = false →
    s.pstate = .expectBlockHeader → s.gbuf = [0x42, 0x4B, n1, n0, p2, p1] →
    let n := 256 * n1.toNat + n0.toNat
    let p := 65536 * p2.toNat + 256 * p1.toNat + b.toNat
    let bs := 16 * 2 ^ s.cls.toNat
    ((1 ≤ n ∧ n ≤ bs ∧ 163 ≤ p ∧ p ≤ 164 + 3 * bs) →
      exec (.feed b) s = .next
        { s with
          blkn := BitVec.ofNat 16 n, blkp := BitVec.ofNat 24 p
          gbuf := [], totalin := s.totalin + 1, pstate := .expectBlockBody
          rsp := some ⟨.ok, 0⟩ }) ∧
    (¬ (1 ≤ n ∧ n ≤ bs ∧ 163 ≤ p ∧ p ≤ 164 + 3 * bs) →
      exec (.feed b) s = .next
        { s with
          gbuf := s.gbuf ++ [b], totalin := s.totalin + 1
          err := true, errcode := 2, errdet := 3, pstate := .error
          rsp := some ⟨.corruptStream, 0⟩ })

/-- The last byte of a block body: the CRC is checked before the payload is decoded, an error comes before
a hold, a held byte changes nothing, and a decoded block is pushed whole (R280, R281). -/
def Obligations.BlockBodyCheckedThenReleased : Prop :=
  ∀ (s : State) (b : Byte), s.mode = .decomp → s.fin = false → s.err = false →
    s.pstate = .expectBlockBody → s.gbuf.length + 1 = s.blkp.toNat + 4 →
    let pay := (s.gbuf ++ [b]).take s.blkp.toNat
    let crc := fromBe ((s.gbuf ++ [b]).drop s.blkp.toNat)
    ((crc32 pay).toNat ≠ crc →
      exec (.feed b) s = .next
        { s with
          gbuf := s.gbuf ++ [b], totalin := s.totalin + 1
          err := true, errcode := 2, errdet := 4, pstate := .error
          rsp := some ⟨.corruptStream, 0⟩ }) ∧
    (∀ det, (crc32 pay).toNat = crc → decodePayload pay s.blkn.toNat = .error det →
      exec (.feed b) s = .next
        { s with
          gbuf := s.gbuf ++ [b], totalin := s.totalin + 1
          err := true, errcode := 2, errdet := det.code, pstate := .error
          rsp := some ⟨.corruptStream, 0⟩ }) ∧
    (∀ block, (crc32 pay).toNat = crc → decodePayload pay s.blkn.toNat = .ok block →
      block ≠ [] → ¬ roomFor s block.length →
      exec (.feed b) s = .next
        { s with rsp := some ⟨.outputFull, BitVec.ofNat 32 block.length⟩ }) ∧
    (∀ block, (crc32 pay).toNat = crc → decodePayload pay s.blkn.toNat = .ok block →
      roomFor s block.length →
      exec (.feed b) s = .next
        { s with
          gbuf := [], totalin := s.totalin + 1, pstate := .expectBlockHeader
          dout := s.dout ++ block
          totalout := s.totalout + BitVec.ofNat 64 block.length
          crcreg := block.foldl crcStep s.crcreg
          short := s.short || decide (s.blkn.toNat < 16 * 2 ^ s.cls.toNat)
          rsp := some ⟨.ok, BitVec.ofNat 32 block.length⟩ })

/-- The twelfth byte of the footer: STREAMCRC is checked before TOTALLEN (R286). -/
def Obligations.FooterChecked : Prop :=
  ∀ (s : State) (b : Byte), s.mode = .decomp → s.fin = false → s.err = false →
    s.pstate = .expectFooter → s.gbuf.length = 11 →
    let crc := fromBe ((s.gbuf ++ [b]).take 4)
    let total := fromBe ((s.gbuf ++ [b]).drop 4)
    (crc ≠ (s.crcreg ^^^ 0xFFFFFFFF).toNat →
      exec (.feed b) s = .next
        { s with
          gbuf := s.gbuf ++ [b], totalin := s.totalin + 1
          err := true, errcode := 2, errdet := 10, pstate := .error
          rsp := some ⟨.corruptStream, 0⟩ }) ∧
    (crc = (s.crcreg ^^^ 0xFFFFFFFF).toNat → total ≠ s.totalout.toNat →
      exec (.feed b) s = .next
        { s with
          gbuf := s.gbuf ++ [b], totalin := s.totalin + 1
          err := true, errcode := 2, errdet := 11, pstate := .error
          rsp := some ⟨.corruptStream, 0⟩ }) ∧
    (crc = (s.crcreg ^^^ 0xFFFFFFFF).toNat → total = s.totalout.toNat →
      exec (.feed b) s = .next
        { s with
          gbuf := [], totalin := s.totalin + 1, pstate := .done, rsp := some ⟨.ok, 0⟩ })

/-- A byte after the footer is counted and raises CorruptStream with detail TrailingData (R288). -/
def Obligations.TrailingByteRefused : Prop :=
  ∀ (s : State) (b : Byte), s.mode = .decomp → s.fin = false → s.err = false → s.pstate = .done →
    exec (.feed b) s = .next
      { s with
        totalin := s.totalin + 1
        err := true, errcode := 2, errdet := 12, pstate := .error
        rsp := some ⟨.corruptStream, 0⟩ }

/-- The first FINISH of a decompressor session: OK in Done, TruncatedStream in every other state, Error
included, where the first error is kept; FIN is set on every path (R290). -/
def Obligations.DecompFinishNeedsDone : Prop :=
  ∀ s : State, s.mode = .decomp → s.fin = false →
    (s.pstate = .done → exec .finish s = .next { s with fin := true, rsp := some ⟨.ok, 0⟩ }) ∧
    (s.pstate ≠ .done → s.err = false →
      exec .finish s = .next
        { s with
          fin := true, err := true, errcode := 3, errdet := 0, pstate := .error
          rsp := some ⟨.truncatedStream, 0⟩ }) ∧
    (s.pstate ≠ .done → s.err = true →
      exec .finish s = .next
        { s with fin := true, pstate := .error, rsp := some ⟨.truncatedStream, 0⟩ })

/-- One bit flipped in a record's payload or BLOCKCRC: the FEED of the record's last byte raises
CorruptStream with detail BlockCrc and pushes nothing (R295). -/
def Obligations.CorruptedRecordDetected : Prop :=
  ∀ (s : State) (b : Byte) (pay : List Byte) (k : Nat),
    s.mode = .decomp → s.fin = false → s.err = false → s.pstate = .expectBlockBody →
    pay.length = s.blkp.toNat → k < 8 * (pay.length + 4) →
    s.gbuf ++ [b] = flipBit (pay ++ beBytes 4 (crc32 pay).toNat) k →
    exec (.feed b) s = .next
      { s with
        gbuf := s.gbuf ++ [b], totalin := s.totalin + 1
        err := true, errcode := 2, errdet := 4, pstate := .error
        rsp := some ⟨.corruptStream, 0⟩ }

/-- In a decompressor session CRCREG and TOTALOUT follow exactly the bytes that FEED and FINISH push to
DOUT (R33, R34, R38 (g)). -/
def Obligations.DecompChecksumCoversOutput : Prop :=
  ∀ (i : Instr) (s t : State), s.mode = .decomp → ((∃ b, i = .feed b) ∨ i = .finish) →
    exec i s = .next t →
    ∃ out, t.dout = s.dout ++ out ∧ t.crcreg = crcSteps s.crcreg out ∧
      t.totalout = s.totalout + BitVec.ofNat 64 out.length

/-! ## The output queue, the counters, the parameters -/

/-- A FEED or FINISH answered OK has pushed exactly RDATA bytes at the back of DOUT, and every other
status of it means that it pushed none (R69, R94). -/
def Obligations.ResponseCountsPushedBytes : Prop :=
  ∀ (i : Instr) (s t : State), ((∃ b, i = .feed b) ∨ i = .finish) → exec i s = .next t →
    ∃ out, t.dout = s.dout ++ out ∧ t.totalout = s.totalout + BitVec.ofNat 64 out.length ∧
      (lastStatus t = some .ok → t.rsp = some ⟨.ok, BitVec.ofNat 32 out.length⟩) ∧
      (lastStatus t ≠ some .ok → out = [])

/-- Only POP and RESET remove bytes from DOUT: every other command leaves what was queued in front (R35,
R386). -/
def Obligations.OnlyPopAndResetRemoveOutput : Prop :=
  ∀ (i : Instr) (s t : State), i ≠ .pop → i ≠ .reset → exec i s = .next t → s.dout <+: t.dout

/-- A held command is a FEED or FINISH of an open session whose own output does not fit: the block cut by a
compressor's FEED with the header before it, what a compressor's FINISH closes the stream with, or the
decoded block of a decompressor's FEED. It changes nothing but the response, which gives the number of these
bytes (R70, R389). -/
def Obligations.HeldCommandChangesNothing : Prop :=
  ∀ (i : Instr) (s t : State), exec i s = .next t → lastStatus t = some .outputFull →
    s.fin = false ∧ s.err = false ∧
    ∃ out cap,
      (match i, s.mode with
        | .feed b, .comp => s.bs ≤ s.buf.length + 1 ∧ out = blockOutput s b
        | .finish, .comp => out = finishOutput s
        | .feed b, .decomp =>
            s.pstate = .expectBlockBody ∧ s.gbuf.length + 1 = s.blkp.toNat + 4 ∧
            checkBody s (s.gbuf ++ [b]) = .ok out
        | _, _ => False) ∧
      s.cfg.ocap = some cap ∧ 0 < out.length ∧ cap < s.dout.length + out.length ∧
      t = { s with rsp := some ⟨.outputFull, BitVec.ofNat 32 out.length⟩ }

/-- A hold is never permanent: with DOUT drained no command is held, in every state within the
invariants (R70, R250). -/
def Obligations.NothingHeldOnEmptyQueue : Prop :=
  ∀ (i : Instr) (s t : State), Inv s → s.dout = [] → exec i s = .next t →
    lastStatus t ≠ some .outputFull

/-- TOTALIN counts every FEED byte an open session accepts, the byte that raises an error included and a
held byte excluded; no other command that keeps the session changes it (R34, R272, R344). -/
def Obligations.TotalinCountsAcceptedBytes : Prop :=
  (∀ (s t : State) (b : Byte), s.mode ≠ .none → s.fin = false → s.err = false →
    exec (.feed b) s = .next t →
    t.totalin = if lastStatus t = some .outputFull then s.totalin else s.totalin + 1) ∧
  (∀ (i : Instr) (s t : State), exec i s = .next t →
    i = .nop ∨ i = .feede ∨ i = .finish ∨ i = .pop ∨ (∃ idx, i = .rdsr idx) →
    t.totalin = s.totalin)

/-- No step changes the parameters of the instance (R40, R381). -/
def Obligations.ParametersNeverChange : Prop :=
  ∀ s t : State, step s = .next t → t.cfg = s.cfg

/-- DRAIN returns the whole queue in order and leaves it empty (R69, R100). -/
def Obligations.DrainReturnsWholeQueue : Prop :=
  ∀ s : State,
    drain s = (s.dout, { s with dout := [], rsp := some ⟨.outputEmpty, 0⟩ })

/-! ## Invariants -/

/-- The invariants hold right after reset of every instance, the default one included (R38, R39). -/
def Obligations.InvAtReset : Prop :=
  (∀ cfg : Config, configOk cfg → Inv (State.resetOf cfg)) ∧ Inv State.reset

/-- Every step keeps the invariants of R38, on legal and illegal words alike (R38, R392). -/
def Obligations.StepKeepsInv : Prop :=
  ∀ s t : State, Inv s → step s = .next t → Inv t

/-! ## Bit stream and checksum -/

/-- What a writer puts, a reader gets back, with fewer than eight zero bits left (R157). -/
def Obligations.BitReaderInvertsWriter : Prop :=
  ∀ fields : List (Nat × Nat), (∀ p ∈ fields, p.2 ≤ 32 ∧ p.1 < 2 ^ p.2) →
    let (bytes, n) := flush (putEach fields [])
    ∃ rest, getEach (fields.map Prod.snd) (unpack bytes) = some (fields.map Prod.fst, rest) ∧
      remaining rest = 8 * bytes.length - n ∧ remaining rest ≤ 7 ∧
      get (remaining rest) rest = some (0, [])

/-- The CRC is affine over GF(2); two sequences that differ in one bit have different CRCs; and a CRC
field altered in one bit differs from the CRC (R320). -/
def Obligations.CrcDetectsSingleBit : Prop :=
  (∀ x y : List Byte, x.length = y.length →
    crc32 x ^^^ crc32 y = crcSteps 0 (List.zipWith (fun a b => a ^^^ b) x y)) ∧
  (∀ (x : List Byte) (k : Nat), k < 8 * x.length → crc32 (flipBit x k) ≠ crc32 x) ∧
  (∀ (x : List Byte) (k : Nat), k < 32 →
    fromBe (flipBit (beBytes 4 (crc32 x).toNat) k) ≠ (crc32 x).toNat)

/-! ## The transform stage -/

/-- The last column is a permutation of the block, and the index is in range (R172). -/
def Obligations.BwtPermutesBlock : Prop :=
  ∀ block : List Byte, block ≠ [] →
    (bwt block).1.Perm block ∧ (bwt block).2 < block.length

/-- The inverse rotation sort gives every block back (R174). -/
def Obligations.IbwtInvertsBwt : Prop :=
  ∀ block : List Byte, ibwt (bwt block).1 (bwt block).2 = block

/-- Move-to-front and its inverse undo each other (R178). -/
def Obligations.MoveToFrontInverse : Prop :=
  (∀ bytes : List Byte, imtf (mtf bytes) = bytes) ∧
  (∀ ranks : List Nat, (∀ r ∈ ranks, r < 256) → mtf (imtf ranks) = ranks)

/-- The run-length stage: the expansion gives the ranks back, and the items are in range (R179, R180). -/
def Obligations.RunLengthInverse : Prop :=
  (∀ ranks : List Nat, unrle (rle ranks) = ranks) ∧
  (∀ ranks : List Nat, (∀ r ∈ ranks, r < 256) → ∀ x ∈ rle ranks, match x with
    | .lit r => 1 ≤ r ∧ r ≤ 255
    | .run c => 1 ≤ c ∧ c ≤ 256)

/-! ## The entropy coder -/

/-- Every code length of a block of a supported class is at most 21, and the table is one that GetTable
accepts: EOB has a code and Kraft equality holds (R203 (a), (c), R206). -/
def Obligations.HuffmanTableIsValid : Prop :=
  ∀ block : List Byte, block ≠ [] → block.length ≤ 32768 →
    (∀ l ∈ lengths (freq (transform block).2), l ≤ 21) ∧
    tableOk (lengths (freq (transform block).2)) = true

/-- Canonical codes of a table that satisfies Kraft equality: each fits its length, none begins another,
the last one is all ones (R204). -/
def Obligations.CanonicalCodesArePrefixFree : Prop :=
  ∀ len : List Nat, (∀ l ∈ len, l ≤ 31) → kraftSum len = 2 ^ 31 →
    (∀ c ∈ codes len, c.code < 2 ^ c.len) ∧
    (∀ c ∈ codes len, ∀ d ∈ codes len, c.symbol ≠ d.symbol →
      ¬ symbolBits (codes len) c.symbol <+: symbolBits (codes len) d.symbol) ∧
    (∀ c, (codes len).getLast? = some c → c.code + 1 = 2 ^ c.len)

/-- A table is valid exactly when the canonical codes end on the all-ones code (R328). -/
def Obligations.KraftEqualityByLastCode : Prop :=
  ∀ (len : List Nat) (c : Code), (∀ l ∈ len, l ≤ 31) → (codes len).getLast? = some c →
    (kraftSum len = 2 ^ 31 ↔ c.code + 1 = 2 ^ c.len)

/-- GetSymbol reads a used symbol's code, leaves the bits after it, and on a reader of 31 bits or more
always finds a symbol (R221). -/
def Obligations.GetSymbolReadsCode : Prop :=
  ∀ len : List Nat, (∀ l ∈ len, l ≤ 31) → kraftSum len = 2 ^ 31 →
    (∀ c ∈ codes len, ∀ rest, getSymbol (codes len) (symbolBits (codes len) c.symbol ++ rest)
      = some (c.symbol, rest)) ∧
    (∀ reader : Bits, 31 ≤ reader.length → ∃ s rest, getSymbol (codes len) reader = some (s, rest) ∧
      reader.length ≤ rest.length + 31)

/-- The size of a payload: ENCBITS from the frequencies and the code lengths, and its bounds (R216). -/
def Obligations.PayloadSizeBounds : Prop :=
  ∀ block : List Byte, block ≠ [] → block.length ≤ 32768 →
    let f := freq (transform block).2
    (payloadBits block).length
      = 1301 + (List.zipWith (fun count len => count * len) f (lengths f)).sum + 8 * f.getD 0 0 ∧
    1303 ≤ (payloadBits block).length ∧ (payloadBits block).length ≤ 1310 + 17 * block.length ∧
    163 ≤ (encodePayload block).length ∧
    8 * (encodePayload block).length ≤ 1310 + 17 * block.length + 7 ∧
    (encodePayload block).length ≤ 164 + 3 * block.length

/-- A payload that decodes gives exactly the announced number of bytes (R220). -/
def Obligations.DecodedLengthIsAnnounced : Prop :=
  ∀ (pay : List Byte) (n : Nat) (block : List Byte),
    decodePayload pay n = .ok block → block.length = n

/-- Decoding inverts encoding for every block of a supported class (R222). -/
def Obligations.DecodeInvertsEncode : Prop :=
  ∀ block : List Byte, block ≠ [] → block.length ≤ 32768 →
    decodePayload (encodePayload block) block.length = .ok block

/-! ## Whole sessions -/

/-- A compressor session emits exactly `Stream(S, c)`, `S` being the bytes it accepted, whatever run of NOP,
FEED, FEEDE, FINISH, POP and RDSR executes it, held commands and refused ones among them: until FINISH is
executed the header and the records of all full blocks so far are out, after it the whole stream, counting
what the host has popped. Where there is room for the whole stream, one FEED a byte and FINISH do it with no
hold (R248, R249). -/
def Obligations.CompressorEmitsStream : Prop :=
  (∀ (s : State) (cls : Byte) (run : List Instr),
    cls.toNat ≤ s.cfg.maxClass → (∀ i ∈ run, keepsSession i = true) →
    let start := after (.cinit cls) s
    let t := afterAll run start
    let input := alongRun accepted run start
    let got := alongRun received run start
    (t.fin = false → CompStream cls s.dout got input t) ∧
    (t.fin = true → got ++ t.dout = s.dout ++ stream input cls)) ∧
  (∀ (s : State) (cls : Byte) (input : List Byte),
    cls.toNat ≤ s.cfg.maxClass → roomFor s (stream input cls).length →
    (∀ k, k ≤ input.length →
      (afterAll (.cinit cls :: (input.take k).map .feed) s).dout
        = s.dout ++ fullBlocksPart (input.take k) cls) ∧
    (let t := afterAll (.cinit cls :: input.map .feed ++ [.finish]) s
     t.dout = s.dout ++ stream input cls ∧ t.fin = true ∧ t.err = false ∧ lastStatus t = some .ok))

/-- Round trip of the stream: a decompressor session that accepts `Stream(S, c)` pushes exactly `S`, reaches
Done and finishes OK; one that accepts a proper prefix raises no error, pushes the blocks of `S` whose records
are complete, and its FINISH responds TruncatedStream. The run may hold NOP, FEEDE, POP, RDSR and held FEEDs
anywhere; what the host has popped counts as pushed. Where there is room for `S` no FEED is held (R280, R293,
R294). -/
def Obligations.DecompressorInvertsStream : Prop :=
  (∀ (s : State) (cls : Byte) (input : List Byte) (k : Nat) (run : List Instr),
    configOk s.cfg → cls.toNat ≤ s.cfg.maxClass → input.length < 2 ^ 64 →
    k ≤ (stream input cls).length →
    (∀ i ∈ run, keepsSession i = true ∧ i ≠ .finish) →
    alongRun accepted run (after .dinit s) = (stream input cls).take k →
    let t := afterAll run (after .dinit s)
    let output := alongRun received run (after .dinit s) ++ t.dout
    let blocks := blocksOf input.length (blockSize cls.toNat) input
    t.err = false ∧
    (k < (stream input cls).length →
      (∃ j, output = s.dout ++ (blocks.take j).flatten ∧
        ((blocks.take j).flatMap blockRecord).length ≤ k - 5 ∧
        (j < blocks.length → k - 5 < ((blocks.take (j + 1)).flatMap blockRecord).length)) ∧
      lastStatus (after .finish t) = some .truncatedStream) ∧
    (k = (stream input cls).length →
      output = s.dout ++ input ∧ t.pstate = .done ∧ lastStatus (after .finish t) = some .ok)) ∧
  (∀ (s : State) (cls : Byte) (input : List Byte) (k : Nat),
    configOk s.cfg → cls.toNat ≤ s.cfg.maxClass → roomFor s input.length →
    k ≤ (stream input cls).length →
    let feeds := ((stream input cls).take k).map Instr.feed
    alongRun accepted feeds (after .dinit s) = (stream input cls).take k ∧
    (k = (stream input cls).length → (afterAll feeds (after .dinit s)).dout = s.dout ++ input))
end

