-- ==== Sys2Proof/Laws/BitIO.lean ====
section
/-! SUPPORT. What the bit writer, the bit reader and the big-endian byte strings do (spec R8, R150 to R155). -/

namespace Sys2Proof.Machine

@[simp] theorem bitsOf_length (v w : Nat) : (bitsOf v w).length = w := by
  induction w with
  | zero => rfl
  | succ w ih => simp [bitsOf, ih]

theorem fromBits_foldl (bits : Bits) (a : Nat) :
    bits.foldl (fun v b => 2 * v + b.toNat) a = a * 2 ^ bits.length + fromBits bits := by
  unfold fromBits
  induction bits generalizing a with
  | nil => simp
  | cons b bits ih =>
    rw [List.foldl_cons, ih, List.foldl_cons, ih (2 * 0 + b.toNat)]
    simp only [List.length_cons, pow_succ]
    ring

@[simp] theorem fromBits_nil : fromBits [] = 0 := rfl

theorem fromBits_cons (b : Bool) (bits : Bits) :
    fromBits (b :: bits) = b.toNat * 2 ^ bits.length + fromBits bits := by
  have h := fromBits_foldl bits b.toNat
  simpa [fromBits] using h

theorem fromBits_lt (bits : Bits) : fromBits bits < 2 ^ bits.length := by
  induction bits with
  | nil => simp
  | cons b bits ih =>
    rw [fromBits_cons, List.length_cons, pow_succ]
    have : b.toNat ≤ 1 := by cases b <;> simp
    nlinarith

/-- Reading the bits of a value gives its low `w` bits back (R150, R155). -/
theorem fromBits_bitsOf (v w : Nat) : fromBits (bitsOf v w) = v % 2 ^ w := by
  induction w with
  | zero => simp [bitsOf, Nat.mod_one]
  | succ w ih =>
    rw [bitsOf, fromBits_cons, ih, bitsOf_length, Nat.mod_pow_succ, Nat.testBit_eq_decide_div_mod_eq]
    rcases Nat.mod_two_eq_zero_or_one (v / 2 ^ w) with h | h <;> simp [h]
    omega

/-- A reader whose unread bits begin with `w` bits splits exactly there (R155). -/
theorem splitBits_append (a b : Bits) : splitBits a.length (a ++ b) = some (a, b) := by
  induction a with
  | nil => rfl
  | cons x a ih => simp [splitBits, ih]

/-- Underflow: a reader with fewer bits than asked for (R155). -/
theorem splitBits_none_iff (w : Nat) (reader : Bits) :
    splitBits w reader = none ↔ reader.length < w := by
  induction w generalizing reader with
  | zero => simp [splitBits]
  | succ w ih => cases reader <;> simp [splitBits, ih]

/-- Reading back a value just put (R151, R155). -/
theorem get_bitsOf (v w : Nat) (rest : Bits) (h : v < 2 ^ w) :
    get w (bitsOf v w ++ rest) = some (v, rest) := by
  have hs := splitBits_append (bitsOf v w) rest
  rw [bitsOf_length] at hs
  simp [get, hs, fromBits_bitsOf, Nat.mod_eq_of_lt h]

@[simp] theorem unpack_length (bytes : List Byte) : (unpack bytes).length = 8 * bytes.length := by
  induction bytes with
  | nil => rfl
  | cons b bytes ih => simp_all [unpack]; omega

/-- Eight bits of a byte built from eight bits (R150). -/
theorem bitsOf_fromBits (bits : Bits) : bitsOf (fromBits bits) bits.length = bits := by
  induction bits with
  | nil => rfl
  | cons b bits ih =>
    have hlt := fromBits_lt bits
    have hlow : ∀ w, w ≤ bits.length →
        bitsOf (b.toNat * 2 ^ bits.length + fromBits bits) w = bitsOf (fromBits bits) w := by
      intro w
      induction w with
      | zero => intro _; rfl
      | succ w ihw =>
        intro hw
        rw [bitsOf, bitsOf, ihw (by omega), Nat.mul_comm,
          Nat.testBit_two_pow_mul_add _ hlt, if_pos (by omega)]
    rw [List.length_cons, bitsOf, fromBits_cons, hlow _ le_rfl, ih, Nat.mul_comm,
      Nat.testBit_two_pow_mul_add _ hlt, if_neg (by omega)]
    cases b <;> simp

/-- Unpacking packed bytes gives the bits back (R150). -/
theorem unpack_pack (bits : Bits) (h : bits.length % 8 = 0) : unpack (pack bits) = bits := by
  match bits with
  | [] => rfl
  | [_] | [_, _] | [_, _, _] | [_, _, _, _] | [_, _, _, _, _] | [_, _, _, _, _, _]
  | [_, _, _, _, _, _, _] => simp at h
  | b7 :: b6 :: b5 :: b4 :: b3 :: b2 :: b1 :: b0 :: rest =>
    have ih := unpack_pack rest (by simp at h; omega)
    have hb := bitsOf_fromBits [b7, b6, b5, b4, b3, b2, b1, b0]
    have hlt := fromBits_lt [b7, b6, b5, b4, b3, b2, b1, b0]
    simp only [List.length_cons, List.length_nil, Nat.reduceAdd, Nat.reducePow] at hb hlt
    simp only [unpack] at ih
    simp only [pack, unpack, List.flatMap_cons, BitVec.toNat_ofNat, Nat.reducePow,
      Nat.mod_eq_of_lt hlt, hb, ih]
    rfl

@[simp] theorem beBytes_length (k v : Nat) : (beBytes k v).length = k := by
  induction k with
  | zero => rfl
  | succ k ih => simp [beBytes, ih]

theorem fromBe_foldl (s : List Byte) (a : Nat) :
    s.foldl (fun v b => 256 * v + b.toNat) a = a * 256 ^ s.length + fromBe s := by
  unfold fromBe
  induction s generalizing a with
  | nil => simp
  | cons b s ih =>
    rw [List.foldl_cons, ih, List.foldl_cons, ih (256 * 0 + b.toNat)]
    simp only [List.length_cons, pow_succ]
    ring

@[simp] theorem fromBe_nil : fromBe [] = 0 := rfl

theorem fromBe_cons (b : Byte) (s : List Byte) :
    fromBe (b :: s) = b.toNat * 256 ^ s.length + fromBe s := by
  have h := fromBe_foldl s b.toNat
  simpa [fromBe] using h

/-- `from_be` inverts `be_N` (R8). -/
theorem fromBe_beBytes (k v : Nat) : fromBe (beBytes k v) = v % 256 ^ k := by
  induction k with
  | zero => simp [beBytes, Nat.mod_one]
  | succ k ih =>
    rw [beBytes, fromBe_cons, ih, beBytes_length, pow_succ, Nat.mod_mul]
    simp
    ring

end Sys2Proof.Machine
end

