-- ==== Sys2Proof/Laws/HostOps.lean ====
section
/-! SUPPORT. The small lemmas of runs of commands, and what a host sees of one command. -/

namespace Sys2Proof.Machine

@[simp] theorem afterAll_nil (s : State) : afterAll [] s = s := rfl

@[simp] theorem afterAll_cons (i : Instr) (run : List Instr) (s : State) :
    afterAll (i :: run) s = afterAll run (after i s) := rfl

@[simp] theorem afterAll_append (first second : List Instr) (s : State) :
    afterAll (first ++ second) s = afterAll second (afterAll first s) :=
  List.foldl_append

@[simp] theorem alongRun_nil (f : Instr → State → List Byte) (s : State) : alongRun f [] s = [] := rfl

@[simp] theorem alongRun_cons (f : Instr → State → List Byte) (i : Instr) (run : List Instr) (s : State) :
    alongRun f (i :: run) s = f i s ++ alongRun f run (after i s) := rfl

/-- A run in two parts: the second one starts where the first one ends. -/
@[simp] theorem alongRun_append (f : Instr → State → List Byte) (first second : List Instr) (s : State) :
    alongRun f (first ++ second) s = alongRun f first s ++ alongRun f second (afterAll first s) := by
  induction first generalizing s with
  | nil => rfl
  | cons i rest ih => simp [ih]

/-- The state after a command that answers. -/
theorem after_of_exec {i : Instr} {s t : State} (h : exec i s = .next t) : after i s = t := by
  simp [after, h]

/-- Only a FEED makes the session accept a byte (R34). -/
theorem accepted_of_not_feed {i : Instr} (s : State) (h : ∀ b, i ≠ .feed b) : accepted i s = [] := by
  cases i <;> first | rfl | exact absurd rfl (h _)

/-- A terminal session accepts nothing (R122). -/
theorem accepted_of_terminal (i : Instr) (s : State) (h : s.fin = true ∨ s.err = true) :
    accepted i s = [] := by
  cases i <;> first | rfl | (rcases h with h | h <;> simp [accepted, h])

/-- A held FEED accepts nothing (R70). -/
theorem accepted_of_held (i : Instr) (s : State) (h : lastStatus (after i s) = some .outputFull) :
    accepted i s = [] := by
  cases i <;> first | rfl | simp [accepted, h]

/-- A FEED of an open session that is not held accepts its byte (R34). -/
theorem accepted_feed_open (b : Byte) (s : State) (hm : s.mode ≠ .none) (hf : s.fin = false)
    (he : s.err = false) (h : lastStatus (after (.feed b) s) ≠ some .outputFull) :
    accepted (.feed b) s = [b] := by
  simp [accepted, hm, hf, he, h]

/-- Only a POP returns a byte of the stream (R128). -/
theorem received_of_not_pop {i : Instr} (s : State) (h : i ≠ .pop) : received i s = [] := by
  cases i <;> first | rfl | exact absurd rfl h

/-- A POP returns the front byte, where there is one (R128). -/
theorem received_pop_cons (s : State) (b : Byte) (rest : List Byte) (h : s.dout = b :: rest) :
    received .pop s = [b] := by
  simp [received, after, exec, execPop, h, State.respond]

/-- A POP on an empty queue returns none (R128). -/
theorem received_pop_nil (s : State) (h : s.dout = []) : received .pop s = [] := by
  simp [received, after, exec, execPop, h, State.respond]

end Sys2Proof.Machine
end

