-- ==== Sys2Proof/Laws/State.lean ====
section
/-! SUPPORT. One lemma per field for each update of the state, so that no proof unfolds a record update. -/

namespace Sys2Proof.Machine


/-! Responding (R94). -/

@[simp] theorem State.respond_cfg (s : State) (st : Status) (d : BitVec 32) : (s.respond st d).cfg = s.cfg := rfl
@[simp] theorem State.respond_mode (s : State) (st : Status) (d : BitVec 32) : (s.respond st d).mode = s.mode := rfl
@[simp] theorem State.respond_fin (s : State) (st : Status) (d : BitVec 32) : (s.respond st d).fin = s.fin := rfl
@[simp] theorem State.respond_err (s : State) (st : Status) (d : BitVec 32) : (s.respond st d).err = s.err := rfl
@[simp] theorem State.respond_errcode (s : State) (st : Status) (d : BitVec 32) : (s.respond st d).errcode = s.errcode := rfl
@[simp] theorem State.respond_errdet (s : State) (st : Status) (d : BitVec 32) : (s.respond st d).errdet = s.errdet := rfl
@[simp] theorem State.respond_cls (s : State) (st : Status) (d : BitVec 32) : (s.respond st d).cls = s.cls := rfl
@[simp] theorem State.respond_hdrsent (s : State) (st : Status) (d : BitVec 32) : (s.respond st d).hdrsent = s.hdrsent := rfl
@[simp] theorem State.respond_short (s : State) (st : Status) (d : BitVec 32) : (s.respond st d).short = s.short := rfl
@[simp] theorem State.respond_pstate (s : State) (st : Status) (d : BitVec 32) : (s.respond st d).pstate = s.pstate := rfl
@[simp] theorem State.respond_buf (s : State) (st : Status) (d : BitVec 32) : (s.respond st d).buf = s.buf := rfl
@[simp] theorem State.respond_gbuf (s : State) (st : Status) (d : BitVec 32) : (s.respond st d).gbuf = s.gbuf := rfl
@[simp] theorem State.respond_blkn (s : State) (st : Status) (d : BitVec 32) : (s.respond st d).blkn = s.blkn := rfl
@[simp] theorem State.respond_blkp (s : State) (st : Status) (d : BitVec 32) : (s.respond st d).blkp = s.blkp := rfl
@[simp] theorem State.respond_crcreg (s : State) (st : Status) (d : BitVec 32) : (s.respond st d).crcreg = s.crcreg := rfl
@[simp] theorem State.respond_totalin (s : State) (st : Status) (d : BitVec 32) : (s.respond st d).totalin = s.totalin := rfl
@[simp] theorem State.respond_totalout (s : State) (st : Status) (d : BitVec 32) : (s.respond st d).totalout = s.totalout := rfl
@[simp] theorem State.respond_dout (s : State) (st : Status) (d : BitVec 32) : (s.respond st d).dout = s.dout := rfl
@[simp] theorem State.respond_cmds (s : State) (st : Status) (d : BitVec 32) : (s.respond st d).cmds = s.cmds := rfl
@[simp] theorem State.respond_rsp (s : State) (st : Status) (d : BitVec 32) : (s.respond st d).rsp = some ⟨st, d⟩ := rfl

/-! ClearSession (R121). -/

@[simp] theorem State.clearSession_cfg (s : State) : (s.clearSession).cfg = s.cfg := rfl
@[simp] theorem State.clearSession_mode (s : State) : (s.clearSession).mode = .none := rfl
@[simp] theorem State.clearSession_fin (s : State) : (s.clearSession).fin = false := rfl
@[simp] theorem State.clearSession_err (s : State) : (s.clearSession).err = false := rfl
@[simp] theorem State.clearSession_errcode (s : State) : (s.clearSession).errcode = 0 := rfl
@[simp] theorem State.clearSession_errdet (s : State) : (s.clearSession).errdet = 0 := rfl
@[simp] theorem State.clearSession_cls (s : State) : (s.clearSession).cls = 0 := rfl
@[simp] theorem State.clearSession_hdrsent (s : State) : (s.clearSession).hdrsent = false := rfl
@[simp] theorem State.clearSession_short (s : State) : (s.clearSession).short = false := rfl
@[simp] theorem State.clearSession_pstate (s : State) : (s.clearSession).pstate = .expectStreamHeader := rfl
@[simp] theorem State.clearSession_buf (s : State) : (s.clearSession).buf = [] := rfl
@[simp] theorem State.clearSession_gbuf (s : State) : (s.clearSession).gbuf = [] := rfl
@[simp] theorem State.clearSession_blkn (s : State) : (s.clearSession).blkn = 0 := rfl
@[simp] theorem State.clearSession_blkp (s : State) : (s.clearSession).blkp = 0 := rfl
@[simp] theorem State.clearSession_crcreg (s : State) : (s.clearSession).crcreg = crcInit := rfl
@[simp] theorem State.clearSession_totalin (s : State) : (s.clearSession).totalin = 0 := rfl
@[simp] theorem State.clearSession_totalout (s : State) : (s.clearSession).totalout = 0 := rfl
@[simp] theorem State.clearSession_dout (s : State) : (s.clearSession).dout = s.dout := rfl
@[simp] theorem State.clearSession_cmds (s : State) : (s.clearSession).cmds = s.cmds := rfl
@[simp] theorem State.clearSession_rsp (s : State) : (s.clearSession).rsp = s.rsp := rfl

/-! The register writes of error entry (R343). -/

@[simp] theorem State.markError_cfg (s : State) (e : SessionError) (det : Detail) : (s.markError e det).cfg = s.cfg := rfl
@[simp] theorem State.markError_mode (s : State) (e : SessionError) (det : Detail) : (s.markError e det).mode = s.mode := rfl
@[simp] theorem State.markError_fin (s : State) (e : SessionError) (det : Detail) : (s.markError e det).fin = s.fin := rfl
@[simp] theorem State.markError_err (s : State) (e : SessionError) (det : Detail) : (s.markError e det).err = true := rfl
@[simp] theorem State.markError_errcode (s : State) (e : SessionError) (det : Detail) : (s.markError e det).errcode = if s.err then s.errcode else e.status.code := rfl
@[simp] theorem State.markError_errdet (s : State) (e : SessionError) (det : Detail) : (s.markError e det).errdet = if s.err then s.errdet else det.code := rfl
@[simp] theorem State.markError_cls (s : State) (e : SessionError) (det : Detail) : (s.markError e det).cls = s.cls := rfl
@[simp] theorem State.markError_hdrsent (s : State) (e : SessionError) (det : Detail) : (s.markError e det).hdrsent = s.hdrsent := rfl
@[simp] theorem State.markError_short (s : State) (e : SessionError) (det : Detail) : (s.markError e det).short = s.short := rfl
@[simp] theorem State.markError_pstate (s : State) (e : SessionError) (det : Detail) : (s.markError e det).pstate = if s.mode = .decomp then .error else s.pstate := rfl
@[simp] theorem State.markError_buf (s : State) (e : SessionError) (det : Detail) : (s.markError e det).buf = s.buf := rfl
@[simp] theorem State.markError_gbuf (s : State) (e : SessionError) (det : Detail) : (s.markError e det).gbuf = s.gbuf := rfl
@[simp] theorem State.markError_blkn (s : State) (e : SessionError) (det : Detail) : (s.markError e det).blkn = s.blkn := rfl
@[simp] theorem State.markError_blkp (s : State) (e : SessionError) (det : Detail) : (s.markError e det).blkp = s.blkp := rfl
@[simp] theorem State.markError_crcreg (s : State) (e : SessionError) (det : Detail) : (s.markError e det).crcreg = s.crcreg := rfl
@[simp] theorem State.markError_totalin (s : State) (e : SessionError) (det : Detail) : (s.markError e det).totalin = s.totalin := rfl
@[simp] theorem State.markError_totalout (s : State) (e : SessionError) (det : Detail) : (s.markError e det).totalout = s.totalout := rfl
@[simp] theorem State.markError_dout (s : State) (e : SessionError) (det : Detail) : (s.markError e det).dout = s.dout := rfl
@[simp] theorem State.markError_cmds (s : State) (e : SessionError) (det : Detail) : (s.markError e det).cmds = s.cmds := rfl
@[simp] theorem State.markError_rsp (s : State) (e : SessionError) (det : Detail) : (s.markError e det).rsp = s.rsp := rfl

/-! Error entry (R343). -/

@[simp] theorem State.raise_cfg (s : State) (e : SessionError) (det : Detail) : (s.raise e det).cfg = s.cfg := rfl
@[simp] theorem State.raise_mode (s : State) (e : SessionError) (det : Detail) : (s.raise e det).mode = s.mode := rfl
@[simp] theorem State.raise_fin (s : State) (e : SessionError) (det : Detail) : (s.raise e det).fin = s.fin := rfl
@[simp] theorem State.raise_err (s : State) (e : SessionError) (det : Detail) : (s.raise e det).err = true := rfl
@[simp] theorem State.raise_errcode (s : State) (e : SessionError) (det : Detail) : (s.raise e det).errcode = if s.err then s.errcode else e.status.code := rfl
@[simp] theorem State.raise_errdet (s : State) (e : SessionError) (det : Detail) : (s.raise e det).errdet = if s.err then s.errdet else det.code := rfl
@[simp] theorem State.raise_cls (s : State) (e : SessionError) (det : Detail) : (s.raise e det).cls = s.cls := rfl
@[simp] theorem State.raise_hdrsent (s : State) (e : SessionError) (det : Detail) : (s.raise e det).hdrsent = s.hdrsent := rfl
@[simp] theorem State.raise_short (s : State) (e : SessionError) (det : Detail) : (s.raise e det).short = s.short := rfl
@[simp] theorem State.raise_pstate (s : State) (e : SessionError) (det : Detail) : (s.raise e det).pstate = if s.mode = .decomp then .error else s.pstate := rfl
@[simp] theorem State.raise_buf (s : State) (e : SessionError) (det : Detail) : (s.raise e det).buf = s.buf := rfl
@[simp] theorem State.raise_gbuf (s : State) (e : SessionError) (det : Detail) : (s.raise e det).gbuf = s.gbuf := rfl
@[simp] theorem State.raise_blkn (s : State) (e : SessionError) (det : Detail) : (s.raise e det).blkn = s.blkn := rfl
@[simp] theorem State.raise_blkp (s : State) (e : SessionError) (det : Detail) : (s.raise e det).blkp = s.blkp := rfl
@[simp] theorem State.raise_crcreg (s : State) (e : SessionError) (det : Detail) : (s.raise e det).crcreg = s.crcreg := rfl
@[simp] theorem State.raise_totalin (s : State) (e : SessionError) (det : Detail) : (s.raise e det).totalin = s.totalin := rfl
@[simp] theorem State.raise_totalout (s : State) (e : SessionError) (det : Detail) : (s.raise e det).totalout = s.totalout := rfl
@[simp] theorem State.raise_dout (s : State) (e : SessionError) (det : Detail) : (s.raise e det).dout = s.dout := rfl
@[simp] theorem State.raise_cmds (s : State) (e : SessionError) (det : Detail) : (s.raise e det).cmds = s.cmds := rfl
@[simp] theorem State.raise_rsp (s : State) (e : SessionError) (det : Detail) : (s.raise e det).rsp = some ⟨e.status, 0⟩ := rfl

/-! A malformed stream (R341, R343). -/

@[simp] theorem State.corrupt_cfg (s : State) (det : Detail) : (s.corrupt det).cfg = s.cfg := rfl
@[simp] theorem State.corrupt_mode (s : State) (det : Detail) : (s.corrupt det).mode = s.mode := rfl
@[simp] theorem State.corrupt_fin (s : State) (det : Detail) : (s.corrupt det).fin = s.fin := rfl
@[simp] theorem State.corrupt_err (s : State) (det : Detail) : (s.corrupt det).err = true := rfl
@[simp] theorem State.corrupt_errcode (s : State) (det : Detail) : (s.corrupt det).errcode = if s.err then s.errcode else 2 := rfl
@[simp] theorem State.corrupt_errdet (s : State) (det : Detail) : (s.corrupt det).errdet = if s.err then s.errdet else det.code := rfl
@[simp] theorem State.corrupt_cls (s : State) (det : Detail) : (s.corrupt det).cls = s.cls := rfl
@[simp] theorem State.corrupt_hdrsent (s : State) (det : Detail) : (s.corrupt det).hdrsent = s.hdrsent := rfl
@[simp] theorem State.corrupt_short (s : State) (det : Detail) : (s.corrupt det).short = s.short := rfl
@[simp] theorem State.corrupt_pstate (s : State) (det : Detail) : (s.corrupt det).pstate = if s.mode = .decomp then .error else s.pstate := rfl
@[simp] theorem State.corrupt_buf (s : State) (det : Detail) : (s.corrupt det).buf = s.buf := rfl
@[simp] theorem State.corrupt_gbuf (s : State) (det : Detail) : (s.corrupt det).gbuf = s.gbuf := rfl
@[simp] theorem State.corrupt_blkn (s : State) (det : Detail) : (s.corrupt det).blkn = s.blkn := rfl
@[simp] theorem State.corrupt_blkp (s : State) (det : Detail) : (s.corrupt det).blkp = s.blkp := rfl
@[simp] theorem State.corrupt_crcreg (s : State) (det : Detail) : (s.corrupt det).crcreg = s.crcreg := rfl
@[simp] theorem State.corrupt_totalin (s : State) (det : Detail) : (s.corrupt det).totalin = s.totalin := rfl
@[simp] theorem State.corrupt_totalout (s : State) (det : Detail) : (s.corrupt det).totalout = s.totalout := rfl
@[simp] theorem State.corrupt_dout (s : State) (det : Detail) : (s.corrupt det).dout = s.dout := rfl
@[simp] theorem State.corrupt_cmds (s : State) (det : Detail) : (s.corrupt det).cmds = s.cmds := rfl
@[simp] theorem State.corrupt_rsp (s : State) (det : Detail) : (s.corrupt det).rsp = some ⟨.corruptStream, 0⟩ := rfl

/-! Push (R9, R34). -/

@[simp] theorem State.push_cfg (s : State) (out : List Byte) : (s.push out).cfg = s.cfg := rfl
@[simp] theorem State.push_mode (s : State) (out : List Byte) : (s.push out).mode = s.mode := rfl
@[simp] theorem State.push_fin (s : State) (out : List Byte) : (s.push out).fin = s.fin := rfl
@[simp] theorem State.push_err (s : State) (out : List Byte) : (s.push out).err = s.err := rfl
@[simp] theorem State.push_errcode (s : State) (out : List Byte) : (s.push out).errcode = s.errcode := rfl
@[simp] theorem State.push_errdet (s : State) (out : List Byte) : (s.push out).errdet = s.errdet := rfl
@[simp] theorem State.push_cls (s : State) (out : List Byte) : (s.push out).cls = s.cls := rfl
@[simp] theorem State.push_hdrsent (s : State) (out : List Byte) : (s.push out).hdrsent = s.hdrsent := rfl
@[simp] theorem State.push_short (s : State) (out : List Byte) : (s.push out).short = s.short := rfl
@[simp] theorem State.push_pstate (s : State) (out : List Byte) : (s.push out).pstate = s.pstate := rfl
@[simp] theorem State.push_buf (s : State) (out : List Byte) : (s.push out).buf = s.buf := rfl
@[simp] theorem State.push_gbuf (s : State) (out : List Byte) : (s.push out).gbuf = s.gbuf := rfl
@[simp] theorem State.push_blkn (s : State) (out : List Byte) : (s.push out).blkn = s.blkn := rfl
@[simp] theorem State.push_blkp (s : State) (out : List Byte) : (s.push out).blkp = s.blkp := rfl
@[simp] theorem State.push_crcreg (s : State) (out : List Byte) : (s.push out).crcreg = s.crcreg := rfl
@[simp] theorem State.push_totalin (s : State) (out : List Byte) : (s.push out).totalin = s.totalin := rfl
@[simp] theorem State.push_totalout (s : State) (out : List Byte) : (s.push out).totalout = s.totalout + BitVec.ofNat 64 out.length := rfl
@[simp] theorem State.push_dout (s : State) (out : List Byte) : (s.push out).dout = s.dout ++ out := rfl
@[simp] theorem State.push_cmds (s : State) (out : List Byte) : (s.push out).cmds = s.cmds := rfl
@[simp] theorem State.push_rsp (s : State) (out : List Byte) : (s.push out).rsp = s.rsp := rfl

/-! Push and respond (R94). -/

@[simp] theorem State.deliver_cfg (s : State) (out : List Byte) : (s.deliver out).cfg = s.cfg := rfl
@[simp] theorem State.deliver_mode (s : State) (out : List Byte) : (s.deliver out).mode = s.mode := rfl
@[simp] theorem State.deliver_fin (s : State) (out : List Byte) : (s.deliver out).fin = s.fin := rfl
@[simp] theorem State.deliver_err (s : State) (out : List Byte) : (s.deliver out).err = s.err := rfl
@[simp] theorem State.deliver_errcode (s : State) (out : List Byte) : (s.deliver out).errcode = s.errcode := rfl
@[simp] theorem State.deliver_errdet (s : State) (out : List Byte) : (s.deliver out).errdet = s.errdet := rfl
@[simp] theorem State.deliver_cls (s : State) (out : List Byte) : (s.deliver out).cls = s.cls := rfl
@[simp] theorem State.deliver_hdrsent (s : State) (out : List Byte) : (s.deliver out).hdrsent = s.hdrsent := rfl
@[simp] theorem State.deliver_short (s : State) (out : List Byte) : (s.deliver out).short = s.short := rfl
@[simp] theorem State.deliver_pstate (s : State) (out : List Byte) : (s.deliver out).pstate = s.pstate := rfl
@[simp] theorem State.deliver_buf (s : State) (out : List Byte) : (s.deliver out).buf = s.buf := rfl
@[simp] theorem State.deliver_gbuf (s : State) (out : List Byte) : (s.deliver out).gbuf = s.gbuf := rfl
@[simp] theorem State.deliver_blkn (s : State) (out : List Byte) : (s.deliver out).blkn = s.blkn := rfl
@[simp] theorem State.deliver_blkp (s : State) (out : List Byte) : (s.deliver out).blkp = s.blkp := rfl
@[simp] theorem State.deliver_crcreg (s : State) (out : List Byte) : (s.deliver out).crcreg = s.crcreg := rfl
@[simp] theorem State.deliver_totalin (s : State) (out : List Byte) : (s.deliver out).totalin = s.totalin := rfl
@[simp] theorem State.deliver_totalout (s : State) (out : List Byte) : (s.deliver out).totalout = s.totalout + BitVec.ofNat 64 out.length := rfl
@[simp] theorem State.deliver_dout (s : State) (out : List Byte) : (s.deliver out).dout = s.dout ++ out := rfl
@[simp] theorem State.deliver_cmds (s : State) (out : List Byte) : (s.deliver out).cmds = s.cmds := rfl
@[simp] theorem State.deliver_rsp (s : State) (out : List Byte) : (s.deliver out).rsp = some ⟨.ok, BitVec.ofNat 32 out.length⟩ := rfl

/-! A hold (R70). -/

@[simp] theorem State.hold_cfg (s : State) (n : Nat) : (s.hold n).cfg = s.cfg := rfl
@[simp] theorem State.hold_mode (s : State) (n : Nat) : (s.hold n).mode = s.mode := rfl
@[simp] theorem State.hold_fin (s : State) (n : Nat) : (s.hold n).fin = s.fin := rfl
@[simp] theorem State.hold_err (s : State) (n : Nat) : (s.hold n).err = s.err := rfl
@[simp] theorem State.hold_errcode (s : State) (n : Nat) : (s.hold n).errcode = s.errcode := rfl
@[simp] theorem State.hold_errdet (s : State) (n : Nat) : (s.hold n).errdet = s.errdet := rfl
@[simp] theorem State.hold_cls (s : State) (n : Nat) : (s.hold n).cls = s.cls := rfl
@[simp] theorem State.hold_hdrsent (s : State) (n : Nat) : (s.hold n).hdrsent = s.hdrsent := rfl
@[simp] theorem State.hold_short (s : State) (n : Nat) : (s.hold n).short = s.short := rfl
@[simp] theorem State.hold_pstate (s : State) (n : Nat) : (s.hold n).pstate = s.pstate := rfl
@[simp] theorem State.hold_buf (s : State) (n : Nat) : (s.hold n).buf = s.buf := rfl
@[simp] theorem State.hold_gbuf (s : State) (n : Nat) : (s.hold n).gbuf = s.gbuf := rfl
@[simp] theorem State.hold_blkn (s : State) (n : Nat) : (s.hold n).blkn = s.blkn := rfl
@[simp] theorem State.hold_blkp (s : State) (n : Nat) : (s.hold n).blkp = s.blkp := rfl
@[simp] theorem State.hold_crcreg (s : State) (n : Nat) : (s.hold n).crcreg = s.crcreg := rfl
@[simp] theorem State.hold_totalin (s : State) (n : Nat) : (s.hold n).totalin = s.totalin := rfl
@[simp] theorem State.hold_totalout (s : State) (n : Nat) : (s.hold n).totalout = s.totalout := rfl
@[simp] theorem State.hold_dout (s : State) (n : Nat) : (s.hold n).dout = s.dout := rfl
@[simp] theorem State.hold_cmds (s : State) (n : Nat) : (s.hold n).cmds = s.cmds := rfl
@[simp] theorem State.hold_rsp (s : State) (n : Nat) : (s.hold n).rsp = some ⟨.outputFull, BitVec.ofNat 32 n⟩ := rfl

/-! An accepted byte is counted (R34). -/

@[simp] theorem State.countIn_cfg (s : State) : (s.countIn).cfg = s.cfg := rfl
@[simp] theorem State.countIn_mode (s : State) : (s.countIn).mode = s.mode := rfl
@[simp] theorem State.countIn_fin (s : State) : (s.countIn).fin = s.fin := rfl
@[simp] theorem State.countIn_err (s : State) : (s.countIn).err = s.err := rfl
@[simp] theorem State.countIn_errcode (s : State) : (s.countIn).errcode = s.errcode := rfl
@[simp] theorem State.countIn_errdet (s : State) : (s.countIn).errdet = s.errdet := rfl
@[simp] theorem State.countIn_cls (s : State) : (s.countIn).cls = s.cls := rfl
@[simp] theorem State.countIn_hdrsent (s : State) : (s.countIn).hdrsent = s.hdrsent := rfl
@[simp] theorem State.countIn_short (s : State) : (s.countIn).short = s.short := rfl
@[simp] theorem State.countIn_pstate (s : State) : (s.countIn).pstate = s.pstate := rfl
@[simp] theorem State.countIn_buf (s : State) : (s.countIn).buf = s.buf := rfl
@[simp] theorem State.countIn_gbuf (s : State) : (s.countIn).gbuf = s.gbuf := rfl
@[simp] theorem State.countIn_blkn (s : State) : (s.countIn).blkn = s.blkn := rfl
@[simp] theorem State.countIn_blkp (s : State) : (s.countIn).blkp = s.blkp := rfl
@[simp] theorem State.countIn_crcreg (s : State) : (s.countIn).crcreg = s.crcreg := rfl
@[simp] theorem State.countIn_totalin (s : State) : (s.countIn).totalin = s.totalin + 1 := rfl
@[simp] theorem State.countIn_totalout (s : State) : (s.countIn).totalout = s.totalout := rfl
@[simp] theorem State.countIn_dout (s : State) : (s.countIn).dout = s.dout := rfl
@[simp] theorem State.countIn_cmds (s : State) : (s.countIn).cmds = s.cmds := rfl
@[simp] theorem State.countIn_rsp (s : State) : (s.countIn).rsp = s.rsp := rfl

/-! An accepted original byte (R243). -/

@[simp] theorem State.acceptOriginal_cfg (s : State) (b : Byte) : (s.acceptOriginal b).cfg = s.cfg := rfl
@[simp] theorem State.acceptOriginal_mode (s : State) (b : Byte) : (s.acceptOriginal b).mode = s.mode := rfl
@[simp] theorem State.acceptOriginal_fin (s : State) (b : Byte) : (s.acceptOriginal b).fin = s.fin := rfl
@[simp] theorem State.acceptOriginal_err (s : State) (b : Byte) : (s.acceptOriginal b).err = s.err := rfl
@[simp] theorem State.acceptOriginal_errcode (s : State) (b : Byte) : (s.acceptOriginal b).errcode = s.errcode := rfl
@[simp] theorem State.acceptOriginal_errdet (s : State) (b : Byte) : (s.acceptOriginal b).errdet = s.errdet := rfl
@[simp] theorem State.acceptOriginal_cls (s : State) (b : Byte) : (s.acceptOriginal b).cls = s.cls := rfl
@[simp] theorem State.acceptOriginal_hdrsent (s : State) (b : Byte) : (s.acceptOriginal b).hdrsent = s.hdrsent := rfl
@[simp] theorem State.acceptOriginal_short (s : State) (b : Byte) : (s.acceptOriginal b).short = s.short := rfl
@[simp] theorem State.acceptOriginal_pstate (s : State) (b : Byte) : (s.acceptOriginal b).pstate = s.pstate := rfl
@[simp] theorem State.acceptOriginal_buf (s : State) (b : Byte) : (s.acceptOriginal b).buf = s.buf := rfl
@[simp] theorem State.acceptOriginal_gbuf (s : State) (b : Byte) : (s.acceptOriginal b).gbuf = s.gbuf := rfl
@[simp] theorem State.acceptOriginal_blkn (s : State) (b : Byte) : (s.acceptOriginal b).blkn = s.blkn := rfl
@[simp] theorem State.acceptOriginal_blkp (s : State) (b : Byte) : (s.acceptOriginal b).blkp = s.blkp := rfl
@[simp] theorem State.acceptOriginal_crcreg (s : State) (b : Byte) : (s.acceptOriginal b).crcreg = crcStep s.crcreg b := rfl
@[simp] theorem State.acceptOriginal_totalin (s : State) (b : Byte) : (s.acceptOriginal b).totalin = s.totalin + 1 := rfl
@[simp] theorem State.acceptOriginal_totalout (s : State) (b : Byte) : (s.acceptOriginal b).totalout = s.totalout := rfl
@[simp] theorem State.acceptOriginal_dout (s : State) (b : Byte) : (s.acceptOriginal b).dout = s.dout := rfl
@[simp] theorem State.acceptOriginal_cmds (s : State) (b : Byte) : (s.acceptOriginal b).cmds = s.cmds := rfl
@[simp] theorem State.acceptOriginal_rsp (s : State) (b : Byte) : (s.acceptOriginal b).rsp = s.rsp := rfl

/-! An accepted byte of the compressed stream (R272). -/

@[simp] theorem State.gather_cfg (s : State) (g : List Byte) : (s.gather g).cfg = s.cfg := rfl
@[simp] theorem State.gather_mode (s : State) (g : List Byte) : (s.gather g).mode = s.mode := rfl
@[simp] theorem State.gather_fin (s : State) (g : List Byte) : (s.gather g).fin = s.fin := rfl
@[simp] theorem State.gather_err (s : State) (g : List Byte) : (s.gather g).err = s.err := rfl
@[simp] theorem State.gather_errcode (s : State) (g : List Byte) : (s.gather g).errcode = s.errcode := rfl
@[simp] theorem State.gather_errdet (s : State) (g : List Byte) : (s.gather g).errdet = s.errdet := rfl
@[simp] theorem State.gather_cls (s : State) (g : List Byte) : (s.gather g).cls = s.cls := rfl
@[simp] theorem State.gather_hdrsent (s : State) (g : List Byte) : (s.gather g).hdrsent = s.hdrsent := rfl
@[simp] theorem State.gather_short (s : State) (g : List Byte) : (s.gather g).short = s.short := rfl
@[simp] theorem State.gather_pstate (s : State) (g : List Byte) : (s.gather g).pstate = s.pstate := rfl
@[simp] theorem State.gather_buf (s : State) (g : List Byte) : (s.gather g).buf = s.buf := rfl
@[simp] theorem State.gather_gbuf (s : State) (g : List Byte) : (s.gather g).gbuf = g := rfl
@[simp] theorem State.gather_blkn (s : State) (g : List Byte) : (s.gather g).blkn = s.blkn := rfl
@[simp] theorem State.gather_blkp (s : State) (g : List Byte) : (s.gather g).blkp = s.blkp := rfl
@[simp] theorem State.gather_crcreg (s : State) (g : List Byte) : (s.gather g).crcreg = s.crcreg := rfl
@[simp] theorem State.gather_totalin (s : State) (g : List Byte) : (s.gather g).totalin = s.totalin + 1 := rfl
@[simp] theorem State.gather_totalout (s : State) (g : List Byte) : (s.gather g).totalout = s.totalout := rfl
@[simp] theorem State.gather_dout (s : State) (g : List Byte) : (s.gather g).dout = s.dout := rfl
@[simp] theorem State.gather_cmds (s : State) (g : List Byte) : (s.gather g).cmds = s.cmds := rfl
@[simp] theorem State.gather_rsp (s : State) (g : List Byte) : (s.gather g).rsp = s.rsp := rfl

/-! An illegal word (R98). -/

@[simp] theorem illegalCommand_cfg (s : State) : (illegalCommand s).cfg = s.cfg := rfl
@[simp] theorem illegalCommand_mode (s : State) : (illegalCommand s).mode = s.mode := rfl
@[simp] theorem illegalCommand_fin (s : State) : (illegalCommand s).fin = s.fin := rfl
@[simp] theorem illegalCommand_err (s : State) : (illegalCommand s).err = s.err := rfl
@[simp] theorem illegalCommand_errcode (s : State) : (illegalCommand s).errcode = s.errcode := rfl
@[simp] theorem illegalCommand_errdet (s : State) : (illegalCommand s).errdet = s.errdet := rfl
@[simp] theorem illegalCommand_cls (s : State) : (illegalCommand s).cls = s.cls := rfl
@[simp] theorem illegalCommand_hdrsent (s : State) : (illegalCommand s).hdrsent = s.hdrsent := rfl
@[simp] theorem illegalCommand_short (s : State) : (illegalCommand s).short = s.short := rfl
@[simp] theorem illegalCommand_pstate (s : State) : (illegalCommand s).pstate = s.pstate := rfl
@[simp] theorem illegalCommand_buf (s : State) : (illegalCommand s).buf = s.buf := rfl
@[simp] theorem illegalCommand_gbuf (s : State) : (illegalCommand s).gbuf = s.gbuf := rfl
@[simp] theorem illegalCommand_blkn (s : State) : (illegalCommand s).blkn = s.blkn := rfl
@[simp] theorem illegalCommand_blkp (s : State) : (illegalCommand s).blkp = s.blkp := rfl
@[simp] theorem illegalCommand_crcreg (s : State) : (illegalCommand s).crcreg = s.crcreg := rfl
@[simp] theorem illegalCommand_totalin (s : State) : (illegalCommand s).totalin = s.totalin := rfl
@[simp] theorem illegalCommand_totalout (s : State) : (illegalCommand s).totalout = s.totalout := rfl
@[simp] theorem illegalCommand_dout (s : State) : (illegalCommand s).dout = s.dout := rfl
@[simp] theorem illegalCommand_cmds (s : State) : (illegalCommand s).cmds = s.cmds := rfl
@[simp] theorem illegalCommand_rsp (s : State) : (illegalCommand s).rsp = some ⟨.illegalCommand, 0⟩ := rfl

end Sys2Proof.Machine
end

