-- ==== Sys2Proof/Laws/Ops.lean ====
section
/-! SUPPORT. What each shared operation can do, said once; proofs cite these instead of unfolding it. -/

namespace Sys2Proof.Machine

/-- With no session the body does not run and only the response is written (R122). -/
theorem afterTerminalCheck_noSession (s : State) (body : State → State) (h : s.mode = .none) :
    s.afterTerminalCheck body = s.respond .invalidState 0 := by
  simp [State.afterTerminalCheck, h]

/-- On a terminal session InvalidState is raised (R122). -/
theorem afterTerminalCheck_terminal (s : State) (body : State → State) (h : s.mode ≠ .none)
    (ht : s.fin = true ∨ s.err = true) :
    s.afterTerminalCheck body = s.raise .invalidState .noDetail := by
  rcases ht with ht | ht <;> simp [State.afterTerminalCheck, h, ht]

/-- On an open session the body runs (R122). -/
theorem afterTerminalCheck_open (s : State) (body : State → State) (h : s.mode ≠ .none)
    (hf : s.fin = false) (he : s.err = false) : s.afterTerminalCheck body = body s := by
  simp [State.afterTerminalCheck, h, hf, he]

/-- The three outcomes of the entry check (R122). -/
theorem afterTerminalCheck_cases (s : State) (body : State → State) :
    (s.mode = .none ∧ s.afterTerminalCheck body = s.respond .invalidState 0) ∨
    (s.mode ≠ .none ∧ (s.fin = true ∨ s.err = true) ∧
      s.afterTerminalCheck body = s.raise .invalidState .noDetail) ∨
    (s.mode ≠ .none ∧ s.fin = false ∧ s.err = false ∧ s.afterTerminalCheck body = body s) := by
  by_cases h : s.mode = .none
  · exact .inl ⟨h, afterTerminalCheck_noSession s body h⟩
  · refine .inr ?_
    cases hf : s.fin
    · cases he : s.err
      · exact .inr ⟨h, rfl, rfl, afterTerminalCheck_open s body h hf he⟩
      · exact .inl ⟨h, .inr rfl, afterTerminalCheck_terminal s body h (.inr he)⟩
    · exact .inl ⟨h, .inl rfl, afterTerminalCheck_terminal s body h (.inl hf)⟩

/-- When a command is held (R70). -/
theorem holds_iff (s : State) (n : Nat) :
    s.holds n = true ↔ n ≠ 0 ∧ ∃ cap, s.cfg.ocap = some cap ∧ cap < s.dout.length + n := by
  unfold State.holds
  cases s.cfg.ocap <;> simp

/-- When a command is not held: nothing to push, or room for it (R70). -/
theorem not_holds_iff (s : State) (n : Nat) :
    s.holds n = false ↔ n = 0 ∨ ∀ cap, s.cfg.ocap = some cap → s.dout.length + n ≤ cap := by
  unfold State.holds
  cases s.cfg.ocap <;> simp [Decidable.or_iff_not_imp_left]

/-- Error entry on a session that has an error keeps the first one (R343). -/
theorem markError_of_err (s : State) (e : SessionError) (det : Detail) (h : s.err = true) :
    s.markError e det = { s with pstate := if s.mode = .decomp then .error else s.pstate } := by
  cases s
  simp_all [State.markError]

/-- The outcomes of CFeed: buffered, held, block cut (R243). -/
theorem cFeed_cases (b : Byte) (s : State) :
    (s.buf.length + 1 < s.bs ∧
      cFeed b s = { s.acceptOriginal b with buf := s.buf ++ [b] }.respond .ok 0) ∨
    (s.bs ≤ s.buf.length + 1 ∧ s.holds (blockOutput s b).length = true ∧
      cFeed b s = s.hold (blockOutput s b).length) ∨
    (s.bs ≤ s.buf.length + 1 ∧ s.holds (blockOutput s b).length = false ∧
      cFeed b s = { s.acceptOriginal b with buf := [], hdrsent := true }.deliver (blockOutput s b)) := by
  by_cases h : s.buf.length + 1 < s.bs
  · exact .inl ⟨h, by simp [cFeed, h]⟩
  · refine .inr ?_
    cases hh : s.holds (blockOutput s b).length
    · exact .inr ⟨by omega, rfl, by simp [cFeed, h, hh]⟩
    · exact .inl ⟨by omega, rfl, by simp [cFeed, h, hh]⟩

/-- The outcomes of CFinish: session in error, held, finished (R246). -/
theorem cFinish_cases (s : State) :
    (s.err = true ∧ cFinish s = { s with fin := true }.raise .invalidState .noDetail) ∨
    (s.err = false ∧ s.holds (finishOutput s).length = true ∧
      cFinish s = s.hold (finishOutput s).length) ∨
    (s.err = false ∧ s.holds (finishOutput s).length = false ∧
      cFinish s = { s with buf := [], hdrsent := true, fin := true }.deliver (finishOutput s)) := by
  cases he : s.err
  · refine .inr ?_
    cases hh : s.holds (finishOutput s).length
    · exact .inr ⟨rfl, rfl, by simp [cFinish, he, hh]⟩
    · exact .inl ⟨rfl, rfl, by simp [cFinish, he, hh]⟩
  · exact .inl ⟨rfl, by simp [cFinish, he]⟩

/-- The outcomes of DStreamHeader (R274). -/
theorem dStreamHeader_cases (g : List Byte) (s : State) :
    (slice g 0 4 ≠ streamMagic ∧ dStreamHeader g s = s.corrupt .badStreamMagic) ∨
    (slice g 0 4 = streamMagic ∧ classSupported s.cfg (g.getD 4 0) = true ∧
      dStreamHeader g s =
        { s with cls := g.getD 4 0, gbuf := [], pstate := .expectBlockHeader }.respond .ok 0) ∨
    (slice g 0 4 = streamMagic ∧ classSupported s.cfg (g.getD 4 0) = false ∧
      dStreamHeader g s = s.raise .unsupportedBlockSize .noDetail) := by
  by_cases h : slice g 0 4 = streamMagic
  · refine .inr ?_
    cases hc : classSupported s.cfg (g.getD 4 0)
    · exact .inr ⟨h, rfl, by simp_all [dStreamHeader]⟩
    · exact .inl ⟨h, rfl, by simp_all [dStreamHeader]⟩
  · exact .inl ⟨h, by simp [dStreamHeader, h]⟩

/-- The outcomes of DMagic (R275). -/
theorem dMagic_cases (g : List Byte) (s : State) :
    (g = endMagic ∧ dMagic g s = { s with gbuf := [], pstate := .expectFooter }.respond .ok 0) ∨
    (g = blockMagic ∧ s.short = false ∧ dMagic g s = s.respond .ok 0) ∨
    (g = blockMagic ∧ s.short = true ∧ dMagic g s = s.corrupt .blockAfterShort) ∨
    (g ≠ endMagic ∧ g ≠ blockMagic ∧ dMagic g s = s.corrupt .badBlockMagic) := by
  by_cases h : g = endMagic
  · exact .inl ⟨h, by simp [dMagic, h]⟩
  · by_cases hb : g = blockMagic
    · cases hs : s.short
      · exact .inr (.inl ⟨hb, rfl, by subst hb; simp [dMagic, hs, blockMagic, endMagic]⟩)
      · exact .inr (.inr (.inl ⟨hb, rfl, by subst hb; simp [dMagic, hs, blockMagic, endMagic]⟩))
    · exact .inr (.inr (.inr ⟨h, hb, by simp [dMagic, h, hb]⟩))

/-- The outcomes of DLengths (R277). -/
theorem dLengths_cases (g : List Byte) (s : State) :
    (lengthsOk s.bs (fromBe (slice g 2 4)) (fromBe (slice g 4 7)) = true ∧
      dLengths g s =
        { s with
          blkn := BitVec.ofNat 16 (fromBe (slice g 2 4))
          blkp := BitVec.ofNat 24 (fromBe (slice g 4 7))
          gbuf := []
          pstate := .expectBlockBody }.respond .ok 0) ∨
    (lengthsOk s.bs (fromBe (slice g 2 4)) (fromBe (slice g 4 7)) = false ∧
      dLengths g s = s.corrupt .badLength) := by
  cases h : lengthsOk s.bs (fromBe (slice g 2 4)) (fromBe (slice g 4 7))
  · exact .inr ⟨rfl, by simp [dLengths, h]⟩
  · exact .inl ⟨rfl, by simp [dLengths, h]⟩

/-- The outcomes of DBody: a check fails, held, released (R280). -/
theorem dBody_cases (g : List Byte) (s : State) :
    (∃ det, checkBody s g = .error det ∧ dBody g s = (s.gather g).corrupt det) ∨
    (∃ block, checkBody s g = .ok block ∧ s.holds block.length = true ∧
      dBody g s = s.hold block.length) ∨
    (∃ block, checkBody s g = .ok block ∧ s.holds block.length = false ∧
      dBody g s = releaseBlock s block) := by
  cases h : checkBody s g with
  | error det => exact .inl ⟨det, rfl, by simp [dBody, h]⟩
  | ok block =>
    refine .inr ?_
    cases hh : s.holds block.length
    · exact .inr ⟨block, rfl, hh, by simp [dBody, h, hh]⟩
    · exact .inl ⟨block, rfl, hh, by simp [dBody, h, hh]⟩

/-- The outcomes of DFooter (R286). -/
theorem dFooter_cases (g : List Byte) (s : State) :
    (fromBe (slice g 0 4) ≠ (crcFinish s.crcreg).toNat ∧ dFooter g s = s.corrupt .footerCrc) ∨
    (fromBe (slice g 0 4) = (crcFinish s.crcreg).toNat ∧ fromBe (slice g 4 12) ≠ s.totalout.toNat ∧
      dFooter g s = s.corrupt .footerCount) ∨
    (fromBe (slice g 0 4) = (crcFinish s.crcreg).toNat ∧ fromBe (slice g 4 12) = s.totalout.toNat ∧
      dFooter g s = { s with gbuf := [], pstate := .done }.respond .ok 0) := by
  by_cases h : fromBe (slice g 0 4) = (crcFinish s.crcreg).toNat
  · by_cases h' : fromBe (slice g 4 12) = s.totalout.toNat
    · exact .inr (.inr ⟨h, h', by simp [dFooter, h, h']⟩)
    · exact .inr (.inl ⟨h, h', by simp [dFooter, h, h']⟩)
  · exact .inl ⟨h, by simp [dFooter, h]⟩

/-- The outcomes of DFeed: which field the byte completes, if any (R272). -/
theorem dFeed_cases (b : Byte) (s : State) :
    (s.pstate = .done ∧ dFeed b s = dDone s) ∨
    (s.pstate = .expectBlockBody ∧ s.gbuf.length + 1 = s.blkp.toNat + 4 ∧
      dFeed b s = dBody (s.gbuf ++ [b]) s) ∨
    (s.pstate = .expectStreamHeader ∧ s.gbuf.length + 1 = 5 ∧
      dFeed b s = dStreamHeader (s.gbuf ++ [b]) (s.gather (s.gbuf ++ [b]))) ∨
    (s.pstate = .expectBlockHeader ∧ s.gbuf.length + 1 = 2 ∧
      dFeed b s = dMagic (s.gbuf ++ [b]) (s.gather (s.gbuf ++ [b]))) ∨
    (s.pstate = .expectBlockHeader ∧ s.gbuf.length + 1 = 7 ∧
      dFeed b s = dLengths (s.gbuf ++ [b]) (s.gather (s.gbuf ++ [b]))) ∨
    (s.pstate = .expectFooter ∧ s.gbuf.length + 1 = 12 ∧
      dFeed b s = dFooter (s.gbuf ++ [b]) (s.gather (s.gbuf ++ [b]))) ∨
    (s.pstate ≠ .done ∧ (s.pstate = .expectBlockBody → s.gbuf.length + 1 ≠ s.blkp.toNat + 4) ∧
      (s.pstate = .expectStreamHeader → s.gbuf.length + 1 ≠ 5) ∧
      (s.pstate = .expectBlockHeader → s.gbuf.length + 1 ≠ 2 ∧ s.gbuf.length + 1 ≠ 7) ∧
      (s.pstate = .expectFooter → s.gbuf.length + 1 ≠ 12) ∧
      dFeed b s = (s.gather (s.gbuf ++ [b])).respond .ok 0) := by
  cases hp : s.pstate
  · by_cases h : s.gbuf.length + 1 = 5 <;> simp_all [dFeed]
  · by_cases h : s.gbuf.length + 1 = 2
    · simp_all [dFeed]
    · by_cases h' : s.gbuf.length + 1 = 7 <;> simp_all [dFeed]
  · by_cases h : s.gbuf.length + 1 = s.blkp.toNat + 4 <;> simp_all [dFeed]
  · by_cases h : s.gbuf.length + 1 = 12 <;> simp_all [dFeed]
  · simp_all [dFeed]
  · simp_all [dFeed]

/-- What a step does: idle, a command, or an illegal word (R120). -/
theorem step_cases (s : State) :
    (s.cmds = [] ∧ step s = .next s) ∨
    (∃ w rest i, s.cmds = w :: rest ∧ decode w = .ok i ∧ step s = exec i { s with cmds := rest }) ∨
    (∃ w rest e, s.cmds = w :: rest ∧ decode w = .error e ∧
      step s = .next (illegalCommand { s with cmds := rest })) := by
  cases hc : s.cmds with
  | nil => exact .inl ⟨rfl, by simp [step, hc]⟩
  | cons w rest =>
    refine .inr ?_
    cases hd : decode w with
    | ok i => exact .inl ⟨w, rest, i, rfl, hd, by simp [step, hc, hd]⟩
    | error e => exact .inr ⟨w, rest, e, rfl, hd, by simp [step, hc, hd]⟩

end Sys2Proof.Machine
end

