-- ==== Sys2Proof/Laws/PerInstr.lean ====
section
/-! SUPPORT. A statement about every command as syntax, one lemma per constructor: its word lies in its row of
the opcode map (spec R92). -/

/-- The word of a command matches its row: `(w & mask) = match` (R92). -/
def Sys2Proof.Laws.RowMatch.Statement (i : Sys2Proof.Instr) : Prop :=
  Sys2Proof.encode i &&& Sys2Proof.rowMask i = Sys2Proof.rowMatch i

namespace Sys2Proof.Laws

theorem RowMatch.nop : RowMatch.Statement .nop := by
  unfold RowMatch.Statement
  decide +kernel

theorem RowMatch.cinit (cls : Byte) : RowMatch.Statement (.cinit cls) := by
  revert cls
  unfold RowMatch.Statement encode rowMask rowMatch packFields
  decide +kernel

theorem RowMatch.dinit : RowMatch.Statement .dinit := by
  unfold RowMatch.Statement
  decide +kernel

theorem RowMatch.feed (b : Byte) : RowMatch.Statement (.feed b) := by
  revert b
  unfold RowMatch.Statement encode rowMask rowMatch packFields
  decide +kernel

theorem RowMatch.feede : RowMatch.Statement .feede := by
  unfold RowMatch.Statement
  decide +kernel

theorem RowMatch.finish : RowMatch.Statement .finish := by
  unfold RowMatch.Statement
  decide +kernel

theorem RowMatch.pop : RowMatch.Statement .pop := by
  unfold RowMatch.Statement
  decide +kernel

theorem RowMatch.rdsr (idx : Byte) : RowMatch.Statement (.rdsr idx) := by
  revert idx
  unfold RowMatch.Statement encode rowMask rowMatch packFields
  decide +kernel

theorem RowMatch.drop : RowMatch.Statement .drop := by
  unfold RowMatch.Statement
  decide +kernel

theorem RowMatch.reset : RowMatch.Statement .reset := by
  unfold RowMatch.Statement
  decide +kernel

end Sys2Proof.Laws
end

