-- ==== Sys2Proof/Laws/Stages.lean ====
section
/-! SUPPORT. Lengths and unfoldings of the transform stage, the entropy coder and the framer (spec R170 to
R321). -/

namespace Sys2Proof.Machine

@[simp] theorem ibwtWalk_length (column : List Byte) (order : List Nat) (t k : Nat) :
    (ibwtWalk column order t k).length = t := by
  induction t generalizing k with
  | zero => rfl
  | succ t ih => simp [ibwtWalk, ih]

@[simp] theorem ibwt_length (column : List Byte) (origin : Nat) :
    (ibwt column origin).length = column.length := by simp [ibwt]

@[simp] theorem mtfFrom_length (recency bytes : List Byte) :
    (mtfFrom recency bytes).length = bytes.length := by
  induction bytes generalizing recency with
  | nil => rfl
  | cons b bytes ih => simp [mtfFrom, ih]

@[simp] theorem mtf_length (bytes : List Byte) : (mtf bytes).length = bytes.length := by simp [mtf]

@[simp] theorem imtfFrom_length (recency : List Byte) (ranks : List Nat) :
    (imtfFrom recency ranks).length = ranks.length := by
  induction ranks generalizing recency with
  | nil => rfl
  | cons r ranks ih => simp [imtfFrom, ih]

@[simp] theorem imtf_length (ranks : List Nat) : (imtf ranks).length = ranks.length := by simp [imtf]

@[simp] theorem untransform_length (origin : Nat) (ranks : List Nat) :
    (untransform origin ranks).length = ranks.length := by simp [untransform]

@[simp] theorem freq_length (items : List Item) : (freq items).length = 257 := by simp [freq]

@[simp] theorem deepen_length (symbols len : List Nat) : (deepen symbols len).length = len.length := by
  simp [deepen]

@[simp] theorem huffmanLoop_length (k : Nat) (nodes : List Node) (len : List Nat) :
    (huffmanLoop k nodes len).length = len.length := by
  induction k generalizing nodes len with
  | zero => cases nodes <;> rfl
  | succ k ih =>
    match nodes with
    | [] => rfl
    | [_] => rfl
    | a :: b :: rest => simp [huffmanLoop, ih]

@[simp] theorem lengths_length (f : List Nat) : (lengths f).length = f.length := by simp [lengths]

@[simp] theorem tableBits_length (len : List Nat) : (tableBits len).length = 5 * len.length := by
  induction len with
  | nil => rfl
  | cons l len ih => simp_all [tableBits]; omega

@[simp] theorem crcSteps_nil (reg : BitVec 32) : crcSteps reg [] = reg := rfl

@[simp] theorem crcSteps_cons (reg : BitVec 32) (b : Byte) (bytes : List Byte) :
    crcSteps reg (b :: bytes) = crcSteps (crcStep reg b) bytes := rfl

/-- The checksum is incremental (R33, R251). -/
theorem crcSteps_append (reg : BitVec 32) (x y : List Byte) :
    crcSteps reg (x ++ y) = crcSteps (crcSteps reg x) y := by simp [crcSteps]

@[simp] theorem streamHeader_length (cls : BitVec 8) : (streamHeader cls).length = 5 := rfl

@[simp] theorem blockHeader_length (n p : Nat) : (blockHeader n p).length = 7 := by
  simp [blockHeader, blockMagic]

@[simp] theorem recordOf_length (n : Nat) (pay : List Byte) :
    (recordOf n pay).length = pay.length + 11 := by
  simp [recordOf]; omega

@[simp] theorem footer_length (crc : BitVec 32) (total : BitVec 64) : (footer crc total).length = 12 := by
  simp [footer]

theorem blockRecord_ne_nil (block : List Byte) : blockRecord block ≠ [] := by
  intro h
  have := congrArg List.length h
  simp [blockRecord] at this

end Sys2Proof.Machine
end

