-- ==== Sys2Proof/Tests/Slice0.lean ====
section
/-! SUPPORT. Tests of the model: decoding and single steps against the spec's vectors (95_test_vectors.md), and
for every statement with hypotheses a state and operands that meet them. -/

-- One theorem at a time: each kernel evaluation would else hold a thread's stack of its own.
set_option Elab.async false

namespace Sys2Proof.Tests

open Sys2Proof Sys2Proof.Machine

/-! ## Well-formedness -/

theorem test_wf_accepts_last_register : (Instr.rdsr 8).wf = true := by decide
theorem test_wf_refuses_register_nine : (Instr.rdsr 9).wf = false := by decide
theorem test_wf_refuses_register_255 : (Instr.rdsr 0xFF).wf = false := by decide

/-! ## Decoding: words written out from R92's fields -/

theorem test_decode_nop : decode 0b0000_0000_00000000 = .ok .nop := by rfl
theorem test_decode_cinit : decode 0b0001_0000_00001011 = .ok (.cinit 11) := by rfl
theorem test_decode_dinit : decode 0b0010_0000_00000000 = .ok .dinit := by rfl
theorem test_decode_feed : decode 0b0011_0000_01100001 = .ok (.feed 0x61) := by rfl
theorem test_decode_feede : decode 0b0011_0001_00000000 = .ok .feede := by rfl
theorem test_decode_finish : decode 0b0100_0000_00000000 = .ok .finish := by rfl
theorem test_decode_pop : decode 0b0101_0000_00000000 = .ok .pop := by rfl
theorem test_decode_rdsr : decode 0b0110_0000_00001000 = .ok (.rdsr 8) := by rfl
theorem test_decode_drop : decode 0b0111_0000_00000000 = .ok .drop := by rfl
theorem test_decode_reset : decode 0b1000_0000_00000000 = .ok .reset := by rfl
/-- V1: illegal words, one of each kind of R98. -/
theorem test_decode_illegal :
    decode 0x0001 = .error .nonzeroImmediate ∧ decode 0x1100 = .error .badFunction ∧
    decode 0x3101 = .error .nonzeroImmediate ∧ decode 0x6009 = .error .noSuchRegister ∧
    decode 0x9000 = .error .reservedOpcode ∧ decode 0xFFFF = .error .reservedOpcode :=
  ⟨rfl, rfl, rfl, rfl, rfl, rfl⟩
/-- The host's entry: the table's word of 16 bits, and no longer command. -/
theorem test_table_word :
    decodeTableWord 16 0x60FF = none ∧ decodeTableWord 16 0x3161 = none ∧
    decodeTableWord 16 0x3061 = some (.feed 0x61) ∧ decodeTableWord 32 0 = none :=
  ⟨rfl, rfl, rfl, rfl⟩

/-! ## States -/

/-- A byte sequence of zeros but for the listed places ("sparse" of 95_test_vectors.md). -/
def sparse (n : Nat) (places : List (Nat × Byte)) : List Byte :=
  places.foldl (fun l p => l.set p.1 p.2) (List.replicate n 0)

/-- An open compressor session of class 0. -/
def comp0 : State := { State.reset with mode := .comp }
/-- An open decompressor session that expects the stream header. -/
def dec0 : State := { State.reset with mode := .decomp }
/-- The same in another parser state, with a gather buffer. -/
def decAt (p : PState) (g : List Byte) : State := { dec0 with pstate := p, gbuf := g }
/-- The smallest instance of R5, with `n` bytes queued. -/
def full (n : Nat) (s : State) : State :=
  { s with cfg := ⟨0, some 242⟩, dout := List.replicate n 0 }

/-- A run of one command that answers a state `t` with a property. -/
def answers (i : Instr) (s : State) (p : State → Bool) : Bool :=
  match exec i s with
  | .next t => p t
  | .fault _ => false
  | .refused _ => false

/-- RSTAT and RDATA of the last response. -/
def said (s : State) : Option (BitVec 4 × Nat) := s.rsp.map fun r => (r.rstat.code, r.rdata.toNat)

/-- A status register's value. -/
def reg (s : State) (idx : Byte) : Nat := ((statusRegister s idx).getD 0).toNat

/-! ## One step of each command (expected values from 95_test_vectors.md) -/

/-- P6: NOP after reset. -/
theorem test_nop : answers .nop .reset (fun t => said t == some (0, 0) && reg t 0 == 0) = true := by
  decide +kernel
/-- V42: CINIT 12 with MAXCLASS = 11. -/
theorem test_cinit_unsupported :
    answers (.cinit 12) .reset
      (fun t => said t == some (4, 0) && reg t 0 == 0x000C0009 && reg t 1 == 4) = true := by
  decide +kernel
/-- P6: CINIT 3. -/
theorem test_cinit : answers (.cinit 3) .reset (fun t => said t == some (0, 0) && reg t 0 == 0x00030001)
    = true := by decide +kernel
/-- V46: DINIT drops a compressor session with a buffered byte. -/
theorem test_dinit : answers .dinit { comp0 with buf := [1], totalin := 1 }
    (fun t => said t == some (0, 0) && reg t 0 == 2 && reg t 2 == 0 && reg t 4 == 0) = true := by
  decide +kernel
/-- R126: the first byte of a session. -/
theorem test_feed_buffers : answers (.feed 0x61) comp0
    (fun t => said t == some (0, 0) && reg t 2 == 1 && reg t 4 == 1 && reg t 8 == 0x19939B6B) = true := by
  decide +kernel
/-- R127: FEEDE on a finished session. -/
theorem test_feede_after_finish : answers .feede { comp0 with fin := true, hdrsent := true }
    (fun t => said t == some (1, 0) && reg t 0 == 0x8D && reg t 1 == 1) = true := by decide +kernel
/-- R128. -/
theorem test_pop : answers .pop { State.reset with dout := [0x42, 0x57] }
    (fun t => said t == some (0, 0x42) && t.dout == [0x57]) = true := by decide +kernel
/-- V41. -/
theorem test_pop_empty : answers .pop .reset (fun t => said t == some (9, 0)) = true := by decide +kernel
/-- P3's end state: MODE 2, FIN, PSTATE 4, SHORT. -/
theorem test_rdsr_status :
    answers (.rdsr 0) { decAt .done [] with fin := true, short := true }
      (fun t => said t == some (0, 0x146)) = true := by decide +kernel
/-- V41: CRCACC of no bytes. -/
theorem test_rdsr_crc : answers (.rdsr 8) .reset (fun t => said t == some (0, 0)) = true := by
  decide +kernel
/-- P6: DROP leaves DOUT. -/
theorem test_drop : answers .drop { comp0 with fin := true, dout := [1, 2] }
    (fun t => said t == some (0, 0) && reg t 0 == 0 && reg t 3 == 2) = true := by decide +kernel
/-- R132. -/
theorem test_reset : answers .reset { comp0 with dout := [1, 2] }
    (fun t => said t == some (0, 0) && reg t 0 == 0 && reg t 3 == 0) = true := by decide +kernel
/-- V45: FINISH right after DINIT. -/
theorem test_finish_truncated : answers .finish dec0
    (fun t => said t == some (3, 0) && reg t 0 == 0x5E && reg t 1 == 3) = true := by decide +kernel
/-- V30 and P1: FINISH of a class 0 session that was fed ten times 0x61. -/
def tenA : State :=
  { comp0 with buf := List.replicate 10 0x61, totalin := 10, crcreg := 0x5978D18B ^^^ 0xFFFFFFFF }
set_option maxRecDepth 20000 in
theorem test_finish_stream : answers .finish tenA
    (fun t => said t == some (0, 195) && reg t 0 == 0x85 && reg t 6 == 195 && t.dout ==
      sparse 195 [(0, 0x42), (1, 0x57), (2, 0x53), (3, 0x31), (5, 0x42), (6, 0x4B), (8, 0x0A), (11, 0xA5),
        (14, 0x10), (75, 0x80), (174, 0x0F), (175, 0x04), (177, 0x85), (178, 0x27), (179, 0x6E),
        (180, 0x85), (181, 0x45), (182, 0x44), (183, 0x59), (184, 0x78), (185, 0xD1), (186, 0x8B),
        (194, 0x0A)]) = true := by decide +kernel
/-- V22: the payload of the block "x", and its CRC. -/
def payX : List Byte := sparse 163 [(77, 0x08), (162, 0x0A)]
set_option maxRecDepth 20000 in
theorem test_crc_of_payload : crc32 payX = 0xB5D66233 := by decide +kernel
theorem test_decode_payload : (decodePayload payX 1).toOption = some [0x78] := by decide +kernel
/-- V22's record, all but its last byte gathered. -/
def bodyX : State :=
  { decAt .expectBlockBody (payX ++ [0xB5, 0xD6, 0x62]) with blkn := 1, blkp := 163 }
set_option maxRecDepth 20000 in
theorem test_feed_releases_block : answers (.feed 0x33) bodyX
    (fun t => said t == some (0, 1) && t.dout == [0x78] && reg t 0 == 0x112 && reg t 2 == 0) = true := by
  decide +kernel
/-- V16: rotation sort, move-to-front and run-length coding of "banana". -/
theorem test_transform_banana :
    rotationOrder [0x62, 0x61, 0x6E, 0x61, 0x6E, 0x61] = [5, 3, 1, 0, 4, 2] ∧
    transform [0x62, 0x61, 0x6E, 0x61, 0x6E, 0x61] =
      (3, [.lit 110, .run 1, .lit 99, .lit 99, .run 2]) := by decide +kernel
/-- V17: run splitting. -/
theorem test_rle_513 : rle (List.replicate 513 0) = [.run 256, .run 256, .run 1] := by decide +kernel
/-- R202's second example and R204's first. -/
theorem test_codes :
    codes (lengths (freq [.lit 97, .run 9])) = [⟨256, 1, 0⟩, ⟨0, 2, 2⟩, ⟨97, 2, 3⟩] := by decide +kernel
/-- R151, R153: `put(5,3); put(1,1); put(0x1FF,9); flush()`. -/
theorem test_flush : flush (putEach [(5, 3), (1, 1), (0x1FF, 9)] []) = ([0xBF, 0xF8], 13) := by
  decide +kernel
/-- R316: the published check value. -/
theorem test_crc_check : crc32 [0x31, 0x32, 0x33, 0x34, 0x35, 0x36, 0x37, 0x38, 0x39] = 0xFC891918 := by
  decide +kernel
/-- R99: the assembler line of a FEED. -/
theorem test_assembler : assembler (.feed 0x61) = "FEED 97" ∧ assembler .pop = "POP" := by
  decide +kernel

/-! ## Witnesses: the hypotheses of each statement are met -/

theorem room_default (s : State) (n : Nat) (hc : s.cfg = defaultConfig) (h : s.dout.length + n ≤ 131072) :
    roomFor s n := by
  intro cap hcap
  rw [hc] at hcap
  cases hcap
  exact h

theorem no_room (s : State) (n : Nat) (h : 0 < n) : ¬ roomFor (full 242 s) n := by
  intro hr
  have hlen : (full 242 s).dout.length = 242 := List.length_replicate
  have := hr 242 rfl
  omega

theorem test_hyp_DecodeOfEncode : (Instr.rdsr 8).wf = true ∧ (Instr.cinit 255).wf = true := by decide
theorem test_hyp_EncodeOfDecode : decode 0x30FF = .ok (.feed 0xFF) := rfl
theorem test_hyp_OpcodeMapSelectsCommand :
    (0x6009 : CommandWord) &&& 0xFF00 = 0x6000 ∧ 8 < ((0x6009 : CommandWord).setWidth 8).toNat := by
  decide
theorem test_hyp_StepRunsDecodedCommand :
    ({ State.reset with cmds := [0x5000] } : State).cmds = [0x5000] ∧ decode 0x5000 = .ok .pop :=
  ⟨rfl, rfl⟩
theorem test_hyp_IllegalWordOnlyAnswered :
    ({ State.reset with cmds := [0x6009] } : State).cmds = [0x6009] ∧
    decode 0x6009 = .error .noSuchRegister := ⟨rfl, rfl⟩
theorem test_hyp_EngineNeverStops : State.reset.cmds = [] := rfl
theorem test_hyp_CinitOpensOrFails :
    (11 : Byte).toNat ≤ State.reset.cfg.maxClass ∧ State.reset.cfg.maxClass < (12 : Byte).toNat := by decide
theorem test_hyp_PopTakesFrontByte :
    ({ State.reset with dout := [7] } : State).dout = [7] ∧ State.reset.dout = [] := ⟨rfl, rfl⟩
theorem test_hyp_RdsrReadsRegister : (8 : Byte).toNat ≤ 8 ∧ 8 < (9 : Byte).toNat := by decide

/-- The three refused kinds of session: none, in error, finished cleanly. -/
theorem test_hyp_refused_sessions :
    State.reset.mode = .none ∧
    ({ comp0 with err := true } : State).mode ≠ .none ∧ ({ comp0 with err := true } : State).err = true ∧
    ({ comp0 with fin := true } : State).mode ≠ .none ∧ ({ comp0 with fin := true } : State).err = false ∧
    ({ comp0 with fin := true } : State).fin = true := by decide
theorem test_hyp_FeedRefusedUnlessOpen : State.reset.mode = .none ∧
    ({ dec0 with err := true } : State).mode ≠ .none ∧ ({ dec0 with err := true } : State).err = true ∧
    ({ dec0 with fin := true } : State).mode ≠ .none ∧ ({ dec0 with fin := true } : State).err = false ∧
    ({ dec0 with fin := true } : State).fin = true := by decide
theorem test_hyp_FeedeChecksAndAnswers : comp0.mode ≠ .none ∧ comp0.err = false ∧ comp0.fin = false := by
  decide
theorem test_hyp_FinishRefusedWithoutSessionOrTwice :
    ({ comp0 with fin := true, err := true } : State).mode ≠ .none ∧
    ({ comp0 with fin := true, err := true } : State).fin = true ∧
    ({ comp0 with fin := true, err := true } : State).err = true := by decide
theorem test_hyp_FirstErrorIsKept :
    ({ dec0 with err := true } : State).err = true ∧
    exec .finish { dec0 with err := true } = .next (after .finish { dec0 with err := true }) ∧
    (∀ cls, Instr.finish ≠ .cinit cls) ∧ Instr.finish ≠ .dinit ∧ Instr.finish ≠ .drop ∧
    Instr.finish ≠ .reset := ⟨rfl, rfl, by simp, by simp, by simp, by simp⟩
theorem test_hyp_ModeWrittenBySessionCommandsOnly : exec .drop comp0 = .next (after .drop comp0) := rfl
theorem test_hyp_StatusOfEachCommand :
    (Instr.rdsr 8).wf = true ∧ exec (.rdsr 8) dec0 = .next (after (.rdsr 8) dec0) := ⟨rfl, rfl⟩

/-- Fourteen bytes buffered: one more still buffers. -/
theorem test_hyp_CompFeedBuffersByte :
    let s := { comp0 with buf := List.replicate 14 0x61 }
    s.mode = .comp ∧ s.fin = false ∧ s.err = false ∧ s.buf.length + 1 < 16 * 2 ^ s.cls.toNat := by decide
/-- Fifteen bytes buffered: one more cuts the block. -/
def fifteen : State := { comp0 with buf := List.replicate 15 0x61 }
theorem test_hyp_CompFeedCutsBlock :
    fifteen.mode = .comp ∧ fifteen.fin = false ∧ fifteen.err = false ∧
    16 * 2 ^ fifteen.cls.toNat ≤ fifteen.buf.length + 1 := by decide
theorem test_hyp_CompFeedCutsBlock_room (out : List Byte) :
    roomFor { fifteen with cfg := ⟨11, none⟩ } out.length := by
  intro cap h
  cases h
theorem test_hyp_CompFeedCutsBlock_hold (out : List Byte) (h : 0 < out.length) :
    ¬ roomFor (full 242 fifteen) out.length :=
  no_room _ _ h
theorem test_hyp_CompFinishClosesStream :
    comp0.mode = .comp ∧ comp0.fin = false ∧ comp0.err = false ∧
    ({ comp0 with err := true } : State).err = true := by decide
theorem test_hyp_CompFinishClosesStream_room : roomFor comp0 19 := room_default _ _ rfl (by decide)
theorem test_hyp_CompFinishClosesStream_hold : ¬ roomFor (full 242 comp0) 19 :=
  no_room _ _ (by decide)
theorem test_hyp_CompressorStateIsItsHistory :
    (11 : Byte).toNat ≤ State.reset.cfg.maxClass ∧
    exec (.cinit 11) .reset = .next (after (.cinit 11) .reset) ∧
    CompHistory comp0 [] ∧ exec (.feed 0) comp0 = .next (after (.feed 0) comp0) ∧
    lastStatus (after (.feed 0) comp0) ≠ some .outputFull :=
  ⟨by decide, rfl, ⟨rfl, rfl, rfl, rfl, rfl, rfl, rfl⟩, rfl, by decide +kernel⟩
/-- The session open and the one its FINISH has closed. -/
theorem test_hyp_CompressorStateIsItsHistory_step :
    CompStream 0 [] [] [] comp0 ∧ keepsSession .feede = true ∧ keepsSession .finish = true ∧
    exec .feede comp0 = .next (after .feede comp0) ∧ (after .feede comp0).fin = false ∧
    exec .finish comp0 = .next (after .finish comp0) ∧ (after .finish comp0).fin = true :=
  ⟨⟨⟨rfl, rfl, rfl, rfl, rfl, rfl, rfl⟩, rfl, rfl, rfl⟩, rfl, rfl, rfl, rfl, rfl, by decide +kernel⟩

theorem test_hyp_DecompFeedGathersByte :
    dec0.mode = .decomp ∧ dec0.fin = false ∧ dec0.err = false ∧
    (decAt .expectStreamHeader [1, 2, 3]).gbuf.length + 1 < 5 ∧
    (decAt .expectBlockHeader []).gbuf.length + 1 < 7 ∧ (decAt .expectBlockHeader []).gbuf.length + 1 ≠ 2 ∧
    (decAt .expectBlockHeader [1, 2, 3, 4, 5]).gbuf.length + 1 < 7 ∧
    (decAt .expectBlockHeader [1, 2, 3, 4, 5]).gbuf.length + 1 ≠ 2 ∧
    (decAt .expectBlockBody [1, 2]).gbuf.length + 1 < (decAt .expectBlockBody [1, 2]).blkp.toNat + 4 ∧
    (decAt .expectFooter (List.replicate 10 0)).gbuf.length + 1 < 12 := by decide
theorem test_hyp_StreamHeaderChecked :
    let good := decAt .expectStreamHeader [0x42, 0x57, 0x53, 0x31]
    let bad := decAt .expectStreamHeader [0x42, 0x57, 0x53, 0x32]
    good.mode = .decomp ∧ good.fin = false ∧ good.err = false ∧ good.pstate = .expectStreamHeader ∧
    good.gbuf.length = 4 ∧ bad.gbuf.length = 4 ∧ bad.gbuf ≠ [0x42, 0x57, 0x53, 0x31] ∧
    good.cfg.maxClass < (12 : Byte).toNat ∧ (11 : Byte).toNat ≤ good.cfg.maxClass := by decide
theorem test_hyp_BlockMagicChecked :
    let s := decAt .expectBlockHeader [0x42]
    let e := decAt .expectBlockHeader [0x45]
    s.mode = .decomp ∧ s.fin = false ∧ s.err = false ∧ s.pstate = .expectBlockHeader ∧ s.gbuf.length = 1 ∧
    e.gbuf ++ [0x44] = [0x45, 0x44] ∧ s.gbuf ++ [0x4B] = [0x42, 0x4B] ∧ s.short = false ∧
    ({ s with short := true } : State).short = true ∧
    s.gbuf ++ [0x44] ≠ [0x45, 0x44] ∧ s.gbuf ++ [0x44] ≠ [0x42, 0x4B] := by decide
/-- ORIGLEN 16 and PAYLEN 212 are the greatest of class 0; PAYLEN 213 and 162 are out of range (R277). -/
theorem test_hyp_BlockLengthsChecked :
    let s := decAt .expectBlockHeader [0x42, 0x4B, 0, 16, 0, 0]
    s.mode = .decomp ∧ s.fin = false ∧ s.err = false ∧ s.pstate = .expectBlockHeader ∧
    s.gbuf = [0x42, 0x4B, 0, 16, 0, 0] ∧
    (1 ≤ 16 ∧ 16 ≤ 16 * 2 ^ s.cls.toNat ∧ 163 ≤ (212 : Byte).toNat ∧
      (212 : Byte).toNat ≤ 164 + 3 * (16 * 2 ^ s.cls.toNat)) ∧
    ¬ ((213 : Byte).toNat ≤ 164 + 3 * (16 * 2 ^ s.cls.toNat)) ∧ ¬ (163 ≤ (162 : Byte).toNat) := by decide
theorem test_hyp_BlockBodyCheckedThenReleased :
    bodyX.mode = .decomp ∧ bodyX.fin = false ∧ bodyX.err = false ∧ bodyX.pstate = .expectBlockBody ∧
    bodyX.gbuf.length + 1 = bodyX.blkp.toNat + 4 := by decide +kernel
set_option maxRecDepth 20000 in
/-- The record of V22 passes both checks; another last byte fails the first. -/
theorem test_hyp_BlockBody_crc :
    (crc32 ((bodyX.gbuf ++ [0x33]).take bodyX.blkp.toNat)).toNat =
      fromBe ((bodyX.gbuf ++ [0x33]).drop bodyX.blkp.toNat) ∧
    (crc32 ((bodyX.gbuf ++ [0x32]).take bodyX.blkp.toNat)).toNat ≠
      fromBe ((bodyX.gbuf ++ [0x32]).drop bodyX.blkp.toNat) := by decide +kernel
theorem test_hyp_BlockBody_decodes :
    (bodyX.gbuf ++ [0x33]).take bodyX.blkp.toNat = payX ∧ bodyX.blkn.toNat = 1 ∧
    (decodePayload payX 1).toOption = some [0x78] ∧ roomFor bodyX 1 ∧ ¬ roomFor (full 242 bodyX) 1 :=
  ⟨by decide +kernel, rfl, test_decode_payload, room_default _ _ rfl (by decide),
    no_room _ _ (by decide)⟩
/-- A two-byte payload whose ORIGIN is not below ORIGLEN, with its own CRC. -/
def badOriginBody : State :=
  { decAt .expectBlockBody ([0x00, 0x05] ++ (beBytes 4 (crc32 [0x00, 0x05]).toNat).take 3) with
    blkn := 1, blkp := 2 }
theorem test_hyp_BlockBody_decode_error :
    let b := (beBytes 4 (crc32 [0x00, 0x05]).toNat).getD 3 0
    badOriginBody.gbuf.length + 1 = badOriginBody.blkp.toNat + 4 ∧
    (crc32 ((badOriginBody.gbuf ++ [b]).take badOriginBody.blkp.toNat)).toNat =
      fromBe ((badOriginBody.gbuf ++ [b]).drop badOriginBody.blkp.toNat) ∧
    decodePayload ((badOriginBody.gbuf ++ [b]).take badOriginBody.blkp.toNat) badOriginBody.blkn.toNat =
      .error .badOrigin :=
  ⟨by decide +kernel, by decide +kernel, by rfl⟩
/-- The footer of a session that pushed ten times 0x61: STREAMCRC 5978D18B, TOTALLEN 10 (R286). -/
def footerA (g : List Byte) : State :=
  { decAt .expectFooter g with crcreg := 0x5978D18B ^^^ 0xFFFFFFFF, totalout := 10 }
theorem test_hyp_FooterChecked :
    let good := footerA [0x59, 0x78, 0xD1, 0x8B, 0, 0, 0, 0, 0, 0, 0]
    let bad := footerA [0x59, 0x78, 0xD1, 0x8A, 0, 0, 0, 0, 0, 0, 0]
    good.mode = .decomp ∧ good.fin = false ∧ good.err = false ∧ good.pstate = .expectFooter ∧
    good.gbuf.length = 11 ∧ bad.gbuf.length = 11 ∧
    fromBe ((good.gbuf ++ [10]).take 4) = (good.crcreg ^^^ 0xFFFFFFFF).toNat ∧
    fromBe ((good.gbuf ++ [10]).drop 4) = good.totalout.toNat ∧
    fromBe ((good.gbuf ++ [11]).drop 4) ≠ good.totalout.toNat ∧
    fromBe ((bad.gbuf ++ [10]).take 4) ≠ (bad.crcreg ^^^ 0xFFFFFFFF).toNat := by decide +kernel
theorem test_hyp_TrailingByteRefused :
    (decAt .done []).mode = .decomp ∧ (decAt .done []).fin = false ∧ (decAt .done []).err = false ∧
    (decAt .done []).pstate = .done := by decide
theorem test_hyp_DecompFinishNeedsDone :
    dec0.mode = .decomp ∧ dec0.fin = false ∧ (decAt .done []).pstate = .done ∧
    (decAt .expectFooter []).pstate ≠ .done ∧ (decAt .expectFooter []).err = false ∧
    ({ decAt .error [] with err := true } : State).pstate ≠ .done ∧
    ({ decAt .error [] with err := true } : State).err = true := by decide
/-- One byte of payload, its last CRC bit flipped. -/
def flipped (k : Nat) : List Byte := flipBit ([0x61] ++ beBytes 4 (crc32 [0x61]).toNat) k
theorem test_hyp_CorruptedRecordDetected :
    let s := { decAt .expectBlockBody ((flipped 39).take 4) with blkp := 1 }
    s.mode = .decomp ∧ s.fin = false ∧ s.err = false ∧ s.pstate = .expectBlockBody ∧
    [(0x61 : Byte)].length = s.blkp.toNat ∧ 39 < 8 * ([(0x61 : Byte)].length + 4) ∧
    s.gbuf ++ [(flipped 39).getD 4 0] = flipped 39 := by decide +kernel
theorem test_hyp_DecompChecksumCoversOutput :
    dec0.mode = .decomp ∧ (∃ b, Instr.feed 1 = .feed b) ∧
    exec (.feed 1) dec0 = .next (after (.feed 1) dec0) := ⟨rfl, ⟨1, rfl⟩, rfl⟩

theorem test_hyp_ResponseCountsPushedBytes :
    ((∃ b, Instr.finish = .feed b) ∨ Instr.finish = .finish) ∧
    exec .finish dec0 = .next (after .finish dec0) := ⟨.inr rfl, rfl⟩
theorem test_hyp_OnlyPopAndResetRemoveOutput :
    Instr.drop ≠ .pop ∧ Instr.drop ≠ .reset ∧
    exec .drop { comp0 with dout := [1] } = .next (after .drop { comp0 with dout := [1] }) :=
  ⟨by decide, by decide, rfl⟩
/-- P5: a FINISH of 14 bytes with 242 of 242 queued. -/
theorem test_hyp_HeldCommandChangesNothing :
    let s := full 242 { comp0 with hdrsent := true }
    exec .finish s = .next (after .finish s) ∧ lastStatus (after .finish s) = some .outputFull :=
  ⟨rfl, by decide +kernel⟩
set_option maxRecDepth 20000 in
/-- R243's record of 181 bytes with its header, and V22's block of one byte, with no room. -/
theorem test_hyp_HeldCommandChangesNothing_feed :
    answers (.feed 0x61) (full 242 fifteen) (fun t => (said t).map Prod.fst == some 8) = true ∧
    answers (.feed 0x33) (full 242 bodyX) (fun t => said t == some (8, 1)) = true := by decide +kernel

/-- An open compressor session of class 0 is within the invariants. -/
theorem comp0_inv : Inv comp0 where
  params := ⟨by decide, fun cap h => by cases h; decide⟩
  queue := fun cap h => by cases h; decide
  errcode := by decide
  errdet := by decide
  noSession := by intro h; cases h
  compShape := by decide
  compOpen := by decide
  compClosed := by decide
  compCount := by decide
  decompShape := by decide
  decompError := by decide
  decompClass := by decide
  decompFinished := by decide
  decompGather := by intro h; cases h
  decompBody := by intro h; cases h

theorem test_hyp_NothingHeldOnEmptyQueue :
    Inv comp0 ∧ comp0.dout = [] ∧ exec .finish comp0 = .next (after .finish comp0) :=
  ⟨comp0_inv, rfl, rfl⟩
theorem test_hyp_StepKeepsInv : Inv comp0 ∧ step comp0 = .next comp0 := ⟨comp0_inv, rfl⟩
theorem test_hyp_InvAtReset : configOk ⟨0, some 242⟩ ∧ configOk ⟨11, none⟩ :=
  ⟨⟨by decide, fun cap h => by cases h; decide⟩, ⟨by decide, fun cap h => by cases h⟩⟩
theorem test_hyp_TotalinCountsAcceptedBytes :
    comp0.mode ≠ .none ∧ comp0.fin = false ∧ comp0.err = false ∧
    exec (.feed 1) comp0 = .next (after (.feed 1) comp0) ∧
    exec .finish dec0 = .next (after .finish dec0) ∧
    (Instr.finish = .nop ∨ Instr.finish = .feede ∨ Instr.finish = .finish ∨ Instr.finish = .pop ∨
      ∃ idx, Instr.finish = .rdsr idx) := ⟨by decide, rfl, rfl, rfl, rfl, .inr (.inr (.inl rfl))⟩
theorem test_hyp_ParametersNeverChange : step State.reset = .next State.reset := rfl

/-- Widths 32 and 0 are the greatest and the least (R151). -/
theorem test_hyp_BitReaderInvertsWriter :
    ∀ p ∈ [(0xFFFFFFFF, 32), (0, 0), (1, 1)], p.2 ≤ 32 ∧ p.1 < 2 ^ p.2 := by decide
theorem test_hyp_CrcDetectsSingleBit :
    [(1 : Byte)].length = [(2 : Byte)].length ∧ 7 < 8 * [(1 : Byte)].length := by decide
theorem test_hyp_BwtPermutesBlock : ([0x61] : List Byte) ≠ [] := by decide
theorem test_hyp_MoveToFrontInverse : ∀ r ∈ [0, 255, 255], r < 256 := by decide
theorem test_hyp_RunLengthInverse : Item.lit 255 ∈ rle [255, 0] ∧ Item.run 1 ∈ rle [255, 0] := by decide
theorem test_hyp_HuffmanTableIsValid :
    (List.replicate 32768 (0x61 : Byte)) ≠ [] ∧ (List.replicate 32768 (0x61 : Byte)).length ≤ 32768 :=
  ⟨fun h => by
    have := congrArg List.length h
    rw [List.length_replicate, List.length_nil] at this
    omega, by rw [List.length_replicate]⟩
/-- The table of V20 in small: two codes of one bit. -/
theorem test_hyp_CanonicalCodes :
    (∀ l ∈ [1, 0, 1], l ≤ 31) ∧ kraftSum [1, 0, 1] = 2 ^ 31 ∧
    (codes [1, 0, 1]).getLast? = some ⟨2, 1, 1⟩ ∧ (⟨0, 1, 0⟩ : Code) ∈ codes [1, 0, 1] := by
  decide +kernel
theorem test_hyp_GetSymbolReadsCode : 31 ≤ (List.replicate 31 false).length := by decide
theorem test_hyp_DecodedLengthIsAnnounced : (decodePayload payX 1).toOption = some [0x78] :=
  test_decode_payload
/-- A class 0 session on a full queue of the smallest instance: the FEED that completes the block is held, as
is a FINISH before it; after 200 POPs the same FEED is accepted. -/
def heldRun : List Instr :=
  List.replicate 15 (.feed 0x61) ++ [.finish, .feed 0x61, .nop, .feede, .rdsr 3] ++ List.replicate 200 .pop
    ++ [.feed 0x61]
def heldStart : State := after (.cinit 0) (full 242 .reset)
set_option maxRecDepth 20000 in
theorem test_hyp_CompressorEmitsStream :
    (0 : Byte).toNat ≤ (full 242 .reset).cfg.maxClass ∧ heldRun.all keepsSession = true ∧
    alongRun accepted heldRun heldStart = List.replicate 16 0x61 ∧
    (alongRun received heldRun heldStart).length = 200 ∧ (afterAll heldRun heldStart).fin = false ∧
    (afterAll (heldRun ++ List.replicate 200 .pop ++ [.finish]) heldStart).fin = true := by decide +kernel
theorem test_hyp_CompressorEmitsStream_room :
    (11 : Byte).toNat ≤ State.reset.cfg.maxClass ∧ roomFor State.reset (stream [] 11).length ∧
    0 ≤ ([] : List Byte).length :=
  ⟨by decide, room_default _ _ rfl (by decide +kernel), by decide⟩
/-- A full block, in an instance with no bound on DOUT. -/
theorem test_hyp_CompressorEmitsStream_block (n : Nat) :
    (0 : Byte).toNat ≤ (State.resetOf ⟨0, none⟩).cfg.maxClass ∧ roomFor (State.resetOf ⟨0, none⟩) n ∧
    16 ≤ (List.replicate 16 (0x61 : Byte)).length :=
  ⟨by decide, (by intro cap h; cases h), by decide⟩
/-- V22's stream of the byte 0x78 in class 0, fed on a full queue: the FEED of the record's last byte is held,
and accepted after a POP. -/
def heldFeeds : List Instr :=
  ((stream [0x78] 0).take 179).map .feed ++ [.nop, .feede, .pop, .rdsr 3]
    ++ ((stream [0x78] 0).drop 178).map .feed
set_option maxRecDepth 20000 in
theorem test_hyp_DecompressorInvertsStream_held :
    let start := after .dinit (full 242 .reset)
    (heldFeeds.all fun i => keepsSession i && i != .finish) = true ∧
    alongRun accepted heldFeeds start = (stream [0x78] 0).take (stream [0x78] 0).length ∧
    (afterAll heldFeeds start).pstate = .done := by decide +kernel
theorem test_hyp_DecompressorInvertsStream :
    configOk State.reset.cfg ∧ (11 : Byte).toNat ≤ State.reset.cfg.maxClass ∧
    ([] : List Byte).length < 2 ^ 64 ∧ roomFor State.reset ([] : List Byte).length ∧
    19 ≤ (stream [] 11).length ∧ 18 < (stream [] 11).length ∧
    alongRun accepted (((stream [] 11).take 18).map .feed) (after .dinit .reset) = (stream [] 11).take 18 :=
  ⟨comp0_inv.params, by decide, by decide, room_default _ _ rfl (by decide), by decide +kernel,
    by decide +kernel, by decide +kernel⟩

end Sys2Proof.Tests
end

/-! PROOFS of the family of 10_state.md, first part: what a command can do to the session registers, said once
per command, and the statements that follow from it. -/

namespace Sys2Proof.Machine

/-! ## One inversion per command -/

@[simp] theorem lastStatus_respond (s : State) (st : Status) (d : BitVec 32) :
    lastStatus (s.respond st d) = some st := rfl

@[simp] theorem lastStatus_raise (s : State) (e : SessionError) (det : Detail) :
    lastStatus (s.raise e det) = some e.status := rfl

@[simp] theorem lastStatus_hold (s : State) (n : Nat) : lastStatus (s.hold n) = some .outputFull := rfl

@[simp] theorem lastStatus_deliver (s : State) (out : List Byte) : lastStatus (s.deliver out) = some .ok := rfl

/-- A session error is never answered OutputFull (R340). -/
@[simp] theorem SessionError.status_ne_outputFull (e : SessionError) : e.status ≠ .outputFull := by
  cases e <;> decide

/-- The code of a session error is none of "no error" (R340). -/
theorem SessionError.code_ne_zero (e : SessionError) : e.status.code ≠ 0 := by
  cases e <;> decide

/-- FEED: no session, a terminal one, or the body of the session's kind (R122, R126). -/
theorem exec_feed_cases {b : Byte} {s t : State} (h : exec (.feed b) s = .next t) :
    (s.mode = .none ∧ t = s.respond .invalidState 0) ∨
    (s.mode ≠ .none ∧ (s.fin = true ∨ s.err = true) ∧ t = s.raise .invalidState .noDetail) ∨
    (s.mode = .comp ∧ s.fin = false ∧ s.err = false ∧ t = cFeed b s) ∨
    (s.mode = .decomp ∧ s.fin = false ∧ s.err = false ∧ t = dFeed b s) := by
  obtain rfl : s.afterTerminalCheck (feedBody b) = t := by simpa [exec, execFeed] using h
  rcases afterTerminalCheck_cases s (feedBody b) with ⟨hm, ht⟩ | ⟨hm, hfe, ht⟩ | ⟨hm, hf, he, ht⟩
  · exact .inl ⟨hm, ht⟩
  · exact .inr (.inl ⟨hm, hfe, ht⟩)
  · cases hmode : s.mode
    · exact absurd hmode hm
    · exact .inr (.inr (.inl ⟨rfl, hf, he, by simp [ht, feedBody, hmode]⟩))
    · exact .inr (.inr (.inr ⟨rfl, hf, he, by simp [ht, feedBody, hmode]⟩))

/-- FEEDE: the entry check and a plain response (R127). -/
theorem exec_feede_cases {s t : State} (h : exec .feede s = .next t) :
    (s.mode = .none ∧ t = s.respond .invalidState 0) ∨
    (s.mode ≠ .none ∧ (s.fin = true ∨ s.err = true) ∧ t = s.raise .invalidState .noDetail) ∨
    (s.mode ≠ .none ∧ s.fin = false ∧ s.err = false ∧ t = s.respond .ok 0) := by
  obtain rfl : s.afterTerminalCheck (fun u => u.respond .ok 0) = t := by simpa [exec, execFeede] using h
  exact afterTerminalCheck_cases s _

/-- FINISH: no session, a finished one, or the body of the session's kind (R130). -/
theorem exec_finish_cases {s t : State} (h : exec .finish s = .next t) :
    (s.mode = .none ∧ t = s.respond .invalidState 0) ∨
    (s.mode ≠ .none ∧ s.fin = true ∧ t = s.raise .invalidState .noDetail) ∨
    (s.mode = .comp ∧ s.fin = false ∧ t = cFinish s) ∨
    (s.mode = .decomp ∧ s.fin = false ∧ t = dFinish s) := by
  simp only [exec, execFinish] at h
  cases hm : s.mode <;> cases hf : s.fin <;> simp_all

/-- POP: the front byte, or OutputEmpty (R128). -/
theorem exec_pop_cases {s t : State} (h : exec .pop s = .next t) :
    (s.dout = [] ∧ t = s.respond .outputEmpty 0) ∨
    (∃ b rest, s.dout = b :: rest ∧ t = { s with dout := rest }.respond .ok (b.setWidth 32)) := by
  simp only [exec, execPop] at h
  cases hd : s.dout <;> simp_all

/-- RDSR only responds (R129). -/
theorem exec_rdsr_cases {idx : Byte} {s t : State} (h : exec (.rdsr idx) s = .next t) :
    ∃ st d, t = s.respond st d := by
  simp only [exec, execRdsr] at h
  cases hv : statusRegister s idx <;> simp_all [illegalCommand]
  all_goals exact ⟨_, _, h.symm⟩

/-- NOP only responds (R123). -/
theorem exec_nop_eq {s t : State} (h : exec .nop s = .next t) : t = s.respond .ok 0 := by
  simpa [exec, execNop] using h.symm

/-- CINIT: a supported class, or an error of the fresh session (R124). -/
theorem exec_cinit_cases {cls : Byte} {s t : State} (h : exec (.cinit cls) s = .next t) :
    (cls.toNat ≤ s.cfg.maxClass ∧
      t = { s.clearSession with mode := .comp, cls := cls }.respond .ok 0) ∨
    (s.cfg.maxClass < cls.toNat ∧
      t = { s.clearSession with mode := .comp, cls := cls }.raise .unsupportedBlockSize .noDetail) := by
  simp only [exec, execCinit, classSupported] at h
  by_cases hc : cls.toNat ≤ s.cfg.maxClass
  · exact .inl ⟨hc, by simpa [hc] using h.symm⟩
  · exact .inr ⟨by omega, by simpa [hc] using h.symm⟩

/-- DINIT (R125). -/
theorem exec_dinit_eq {s t : State} (h : exec .dinit s = .next t) :
    t = { s.clearSession with mode := .decomp, pstate := .expectStreamHeader }.respond .ok 0 := by
  simpa [exec, execDinit] using h.symm

/-- DROP (R131). -/
theorem exec_drop_eq {s t : State} (h : exec .drop s = .next t) : t = s.clearSession.respond .ok 0 := by
  simpa [exec, execDrop] using h.symm

/-- RESET (R132). -/
theorem exec_reset_eq {s t : State} (h : exec .reset s = .next t) :
    t = { s.clearSession with dout := [] }.respond .ok 0 := by
  simpa [exec, execReset] using h.symm

/-- The outcomes of DFinish: Done, or TruncatedStream (R290). -/
theorem dFinish_cases (s : State) :
    (s.pstate = .done ∧ dFinish s = { s with fin := true }.respond .ok 0) ∨
    (s.pstate ≠ .done ∧ dFinish s = { s with fin := true }.raise .truncatedStream .noDetail) := by
  by_cases h : s.pstate = .done
  · exact .inl ⟨h, by simp [dFinish, h]⟩
  · exact .inr ⟨h, by simp [dFinish, h]⟩

/-- What a FEED of a DECOMP session leaves, whatever field its byte completes: an error on the byte gathered, a
hold, a released block, or the parser's registers moved on (R272 to R288). -/
theorem dFeed_outcomes (b : Byte) (s : State) :
    (∃ g e det, dFeed b s = (s.gather g).raise e det) ∨
    (∃ n, dFeed b s = s.hold n) ∨
    (∃ block, dFeed b s = releaseBlock s block) ∨
    (∃ cls g p n l, dFeed b s =
      { s.gather g with cls := cls, pstate := p, blkn := n, blkp := l }.respond .ok 0) := by
  rcases dFeed_cases b s with ⟨-, h⟩ | ⟨-, -, h⟩ | ⟨-, -, h⟩ | ⟨-, -, h⟩ | ⟨-, -, h⟩ | ⟨-, -, h⟩ |
    ⟨-, -, -, -, -, h⟩ <;> rw [h]
  · exact .inl ⟨s.gbuf, _, _, rfl⟩
  · rcases dBody_cases (s.gbuf ++ [b]) s with ⟨det, -, h⟩ | ⟨block, -, -, h⟩ | ⟨block, -, -, h⟩ <;> rw [h]
    · exact .inl ⟨_, _, _, rfl⟩
    · exact .inr (.inl ⟨_, rfl⟩)
    · exact .inr (.inr (.inl ⟨_, rfl⟩))
  · rcases dStreamHeader_cases (s.gbuf ++ [b]) (s.gather (s.gbuf ++ [b])) with
      ⟨-, h⟩ | ⟨-, -, h⟩ | ⟨-, -, h⟩ <;> rw [h]
    · exact .inl ⟨_, _, _, rfl⟩
    · exact .inr (.inr (.inr ⟨_, [], _, _, _, rfl⟩))
    · exact .inl ⟨_, _, _, rfl⟩
  · rcases dMagic_cases (s.gbuf ++ [b]) (s.gather (s.gbuf ++ [b])) with
      ⟨-, h⟩ | ⟨-, -, h⟩ | ⟨-, -, h⟩ | ⟨-, -, h⟩ <;> rw [h]
    · exact .inr (.inr (.inr ⟨_, [], _, _, _, rfl⟩))
    · exact .inr (.inr (.inr ⟨s.cls, s.gbuf ++ [b], s.pstate, s.blkn, s.blkp, rfl⟩))
    · exact .inl ⟨_, _, _, rfl⟩
    · exact .inl ⟨_, _, _, rfl⟩
  · rcases dLengths_cases (s.gbuf ++ [b]) (s.gather (s.gbuf ++ [b])) with ⟨-, h⟩ | ⟨-, h⟩ <;> rw [h]
    · exact .inr (.inr (.inr ⟨_, [], _, _, _, rfl⟩))
    · exact .inl ⟨_, _, _, rfl⟩
  · rcases dFooter_cases (s.gbuf ++ [b]) (s.gather (s.gbuf ++ [b])) with
      ⟨-, h⟩ | ⟨-, -, h⟩ | ⟨-, -, h⟩ <;> rw [h]
    · exact .inl ⟨_, _, _, rfl⟩
    · exact .inl ⟨_, _, _, rfl⟩
    · exact .inr (.inr (.inr ⟨_, [], _, _, _, rfl⟩))
  · exact .inr (.inr (.inr ⟨s.cls, s.gbuf ++ [b], s.pstate, s.blkn, s.blkp, rfl⟩))

/-! ## The frame of the commands of a session -/

/-- From `s` to `t` a command of the session has pushed `out` and left alone what no such command writes: the
parameters, MODE and the record of an earlier error; TOTALOUT counts `out`, and in a DECOMP session CRCREG
covers it (R23, R25, R26, R33, R34, R40). -/
structure Pushes (s t : State) (out : List Byte) : Prop where
  cfg : t.cfg = s.cfg
  mode : t.mode = s.mode
  firstError : s.err = true → t.err = true ∧ t.errcode = s.errcode ∧ t.errdet = s.errdet
  dout : t.dout = s.dout ++ out
  totalout : t.totalout = s.totalout + BitVec.ofNat 64 out.length
  checksum : s.mode = .decomp → t.crcreg = crcSteps s.crcreg out

/-- A response pushes nothing. -/
theorem pushes_respond (s : State) (st : Status) (d : BitVec 32) : Pushes s (s.respond st d) [] := by
  constructor <;> simp +contextual

/-- Error entry pushes nothing and keeps an earlier error (R343, R347). -/
theorem pushes_raise (s : State) (e : SessionError) (det : Detail) : Pushes s (s.raise e det) [] := by
  constructor <;> simp +contextual

/-- A FEED of a COMP session pushes nothing or the block it has cut (R243). -/
theorem pushes_cFeed (b : Byte) (s : State) (hm : s.mode = .comp) : ∃ out, Pushes s (cFeed b s) out := by
  rcases cFeed_cases b s with ⟨-, h⟩ | ⟨-, -, h⟩ | ⟨-, -, h⟩ <;> rw [h]
  · exact ⟨[], by constructor <;> simp +contextual [hm]⟩
  · exact ⟨[], pushes_respond s _ _⟩
  · exact ⟨blockOutput s b, by constructor <;> simp +contextual [hm]⟩

/-- A FINISH of a COMP session pushes nothing or the end of the stream (R246). -/
theorem pushes_cFinish (s : State) (hm : s.mode = .comp) : ∃ out, Pushes s (cFinish s) out := by
  rcases cFinish_cases s with ⟨-, h⟩ | ⟨-, -, h⟩ | ⟨-, -, h⟩ <;> rw [h]
  · exact ⟨[], by constructor <;> simp +contextual [hm]⟩
  · exact ⟨[], pushes_respond s _ _⟩
  · exact ⟨finishOutput s, by constructor <;> simp +contextual [hm]⟩

/-- A FEED of a DECOMP session pushes nothing or a decoded block, which CRCREG then covers (R280). -/
theorem pushes_dFeed (b : Byte) (s : State) : ∃ out, Pushes s (dFeed b s) out := by
  rcases dFeed_outcomes b s with ⟨g, e, det, h⟩ | ⟨n, h⟩ | ⟨block, h⟩ | ⟨cls, g, p, n, l, h⟩ <;> rw [h]
  · exact ⟨[], by constructor <;> simp +contextual⟩
  · exact ⟨[], pushes_respond s _ _⟩
  · exact ⟨block, by constructor <;> simp +contextual [releaseBlock]⟩
  · exact ⟨[], by constructor <;> simp +contextual⟩

/-- A FINISH of a DECOMP session pushes nothing (R290). -/
theorem pushes_dFinish (s : State) : Pushes s (dFinish s) [] := by
  rcases dFinish_cases s with ⟨-, h⟩ | ⟨-, h⟩ <;> rw [h] <;> constructor <;> simp +contextual

/-- The frame of FEED. -/
theorem exec_feed_pushes {b : Byte} {s t : State} (h : exec (.feed b) s = .next t) :
    ∃ out, Pushes s t out := by
  rcases exec_feed_cases h with ⟨-, rfl⟩ | ⟨-, -, rfl⟩ | ⟨hm, -, -, rfl⟩ | ⟨-, -, -, rfl⟩
  · exact ⟨[], pushes_respond s _ _⟩
  · exact ⟨[], pushes_raise s _ _⟩
  · exact pushes_cFeed b s hm
  · exact pushes_dFeed b s

/-- The frame of FINISH. -/
theorem exec_finish_pushes {s t : State} (h : exec .finish s = .next t) : ∃ out, Pushes s t out := by
  rcases exec_finish_cases h with ⟨-, rfl⟩ | ⟨-, -, rfl⟩ | ⟨hm, -, rfl⟩ | ⟨-, -, rfl⟩
  · exact ⟨[], pushes_respond s _ _⟩
  · exact ⟨[], pushes_raise s _ _⟩
  · exact pushes_cFinish s hm
  · exact ⟨[], pushes_dFinish s⟩

/-- Every command that keeps the session, POP apart, has the frame. -/
theorem exec_pushes {i : Instr} {s t : State} (hk : keepsSession i = true) (hp : i ≠ .pop)
    (h : exec i s = .next t) : ∃ out, Pushes s t out := by
  cases i with
  | nop => exact ⟨[], exec_nop_eq h ▸ pushes_respond s _ _⟩
  | feed b => exact exec_feed_pushes h
  | feede =>
    rcases exec_feede_cases h with ⟨-, rfl⟩ | ⟨-, -, rfl⟩ | ⟨-, -, -, rfl⟩
    · exact ⟨[], pushes_respond s _ _⟩
    · exact ⟨[], pushes_raise s _ _⟩
    · exact ⟨[], pushes_respond s _ _⟩
  | finish => exact exec_finish_pushes h
  | rdsr idx =>
    obtain ⟨st, d, rfl⟩ := exec_rdsr_cases h
    exact ⟨[], pushes_respond s st d⟩
  | pop => exact absurd rfl hp
  | cinit _ | dinit | drop | reset => cases hk

/-- POP writes nothing but the queue and the response (R128). -/
theorem exec_pop_frame {s t : State} (h : exec .pop s = .next t) :
    ∃ rest r, t = { s with dout := rest, rsp := r } := by
  rcases exec_pop_cases h with ⟨-, rfl⟩ | ⟨b, rest, -, rfl⟩
  · exact ⟨s.dout, _, rfl⟩
  · exact ⟨rest, _, rfl⟩

/-- What no command of a session writes, POP included (R23, R25, R26, R40, R347). -/
theorem exec_keeps {i : Instr} {s t : State} (hk : keepsSession i = true) (h : exec i s = .next t) :
    t.cfg = s.cfg ∧ t.mode = s.mode ∧
      (s.err = true → t.err = true ∧ t.errcode = s.errcode ∧ t.errdet = s.errdet) := by
  by_cases hpop : i = .pop
  · subst hpop
    obtain ⟨rest, r, rfl⟩ := exec_pop_frame h
    exact ⟨rfl, rfl, fun he => ⟨he, rfl, rfl⟩⟩
  · obtain ⟨out, hout⟩ := exec_pushes hk hpop h
    exact ⟨hout.cfg, hout.mode, hout.firstError⟩

/-- What no command that starts, drops or resets a session writes (R121, R132). -/
theorem exec_session_keeps {i : Instr} {s t : State} (hk : keepsSession i = false)
    (h : exec i s = .next t) : t.cfg = s.cfg ∧ (i ≠ .reset → t.dout = s.dout) := by
  cases i with
  | cinit cls => rcases exec_cinit_cases h with ⟨-, rfl⟩ | ⟨-, rfl⟩ <;> exact ⟨rfl, fun _ => rfl⟩
  | dinit => exact exec_dinit_eq h ▸ ⟨rfl, fun _ => rfl⟩
  | drop => exact exec_drop_eq h ▸ ⟨rfl, fun _ => rfl⟩
  | reset => exact exec_reset_eq h ▸ ⟨rfl, fun hne => absurd rfl hne⟩
  | nop | feed _ | feede | finish | pop | rdsr _ => cases hk

/-- No command writes the parameters (R40). -/
theorem exec_cfg {i : Instr} {s t : State} (h : exec i s = .next t) : t.cfg = s.cfg := by
  cases hk : keepsSession i
  · exact (exec_session_keeps hk h).1
  · exact (exec_keeps hk h).1

/-! ## The statements that the frame gives -/

/-- Settles O20: error entry keeps the first error, and no command of a session clears one. -/
theorem firstErrorIsKept : Obligations.FirstErrorIsKept := by
  intro i s t herr h hcinit hdinit hdrop hreset
  have hk : keepsSession i = true := by cases i <;> simp_all [keepsSession]
  obtain ⟨-, -, hfirst⟩ := exec_keeps hk h
  exact hfirst herr

/-- Settles O21: the four session commands write MODE, and the frame keeps it on the others. -/
theorem modeWrittenBySessionCommandsOnly : Obligations.ModeWrittenBySessionCommandsOnly := by
  intro i s t h
  cases i with
  | cinit cls => rcases exec_cinit_cases h with ⟨-, rfl⟩ | ⟨-, rfl⟩ <;> rfl
  | dinit => rw [exec_dinit_eq h]; rfl
  | drop => rw [exec_drop_eq h]; rfl
  | reset => rw [exec_reset_eq h]; rfl
  | nop | feed _ | feede | finish | pop | rdsr _ => exact (exec_keeps rfl h).2.1

/-- Settles O36: in a DECOMP session the frame ties CRCREG and TOTALOUT to the bytes pushed. -/
theorem decompChecksumCoversOutput : Obligations.DecompChecksumCoversOutput := by
  intro i s t hm hi h
  have hpush : ∃ out, Pushes s t out := by
    rcases hi with ⟨b, rfl⟩ | rfl
    · exact exec_feed_pushes h
    · exact exec_finish_pushes h
  obtain ⟨out, hout⟩ := hpush
  exact ⟨out, hout.dout, hout.checksum hm, hout.totalout⟩

/-- Settles O38: ClearSession leaves DOUT, and every other command but POP and RESET appends to it. -/
theorem onlyPopAndResetRemoveOutput : Obligations.OnlyPopAndResetRemoveOutput := by
  intro i s t hpop hreset h
  cases hk : keepsSession i
  · rw [(exec_session_keeps hk h).2 hreset]
  · obtain ⟨out, hout⟩ := exec_pushes hk hpop h
    exact ⟨out, hout.dout.symm⟩

/-- Settles O42: taking a word and answering an illegal one leave the parameters, as every command does. -/
theorem parametersNeverChange : Obligations.ParametersNeverChange := by
  intro s t h
  rcases step_cases s with ⟨-, hs⟩ | ⟨w, rest, i, -, -, hs⟩ | ⟨w, rest, e, -, -, hs⟩ <;> rw [hs] at h
  · cases h
    rfl
  · simpa using exec_cfg h
  · cases h
    rfl

/-! ## TOTALIN -/

/-- A FEED of a COMP session counts its byte unless it is held (R34, R243). -/
theorem cFeed_totalin (b : Byte) (s : State) :
    (cFeed b s).totalin =
      if lastStatus (cFeed b s) = some .outputFull then s.totalin else s.totalin + 1 := by
  rcases cFeed_cases b s with ⟨-, h⟩ | ⟨-, -, h⟩ | ⟨-, -, h⟩ <;> rw [h] <;> simp

/-- A FEED of a DECOMP session counts its byte unless it is held, the byte of an error included (R272). -/
theorem dFeed_totalin (b : Byte) (s : State) :
    (dFeed b s).totalin =
      if lastStatus (dFeed b s) = some .outputFull then s.totalin else s.totalin + 1 := by
  rcases dFeed_outcomes b s with ⟨g, e, det, h⟩ | ⟨n, h⟩ | ⟨block, h⟩ | ⟨cls, g, p, n, l, h⟩ <;> rw [h] <;>
    simp [releaseBlock]

/-- FINISH accepts no byte (R246, R290). -/
theorem exec_finish_totalin {s t : State} (h : exec .finish s = .next t) : t.totalin = s.totalin := by
  rcases exec_finish_cases h with ⟨-, rfl⟩ | ⟨-, -, rfl⟩ | ⟨-, -, rfl⟩ | ⟨-, -, rfl⟩
  · rfl
  · rfl
  · rcases cFinish_cases s with ⟨-, h⟩ | ⟨-, -, h⟩ | ⟨-, -, h⟩ <;> rw [h] <;> rfl
  · rcases dFinish_cases s with ⟨-, h⟩ | ⟨-, h⟩ <;> rw [h] <;> rfl

/-- Settles O41: the two FEED bodies count their byte unless held, and the other commands leave TOTALIN. -/
theorem totalinCountsAcceptedBytes : Obligations.TotalinCountsAcceptedBytes := by
  refine ⟨fun s t b hm hf he h => ?_, fun i s t h hi => ?_⟩
  · rcases exec_feed_cases h with ⟨hm', -⟩ | ⟨-, hfe, -⟩ | ⟨-, -, -, rfl⟩ | ⟨-, -, -, rfl⟩
    · exact absurd hm' hm
    · simp [hf, he] at hfe
    · exact cFeed_totalin b s
    · exact dFeed_totalin b s
  · rcases hi with rfl | rfl | rfl | rfl | ⟨idx, rfl⟩
    · rw [exec_nop_eq h]; rfl
    · rcases exec_feede_cases h with ⟨-, rfl⟩ | ⟨-, -, rfl⟩ | ⟨-, -, -, rfl⟩ <;> rfl
    · exact exec_finish_totalin h
    · obtain ⟨rest, r, rfl⟩ := exec_pop_frame h
      rfl
    · obtain ⟨st, d, rfl⟩ := exec_rdsr_cases h
      rfl

end Sys2Proof.Machine

/-! PROOFS of the family of 10_state.md, second part: the reset state, and the invariants along every step (spec
R38). An invariant of a state after a command is put together from the mode's own clauses. -/

namespace Sys2Proof.Machine

/-! ## The reset state -/

/-- Every status register reads 0 in the reset state (R36, R39). -/
theorem statusRegister_resetOf (cfg : Config) {idx : Byte} (h : idx.toNat ≤ 8) :
    statusRegister (State.resetOf cfg) idx = some 0 := by
  unfold statusRegister
  interval_cases idx.toNat <;>
    simp [State.resetOf, statusWord, errinfoWord, bufferCount, crcFinish, Mode.code, PState.code]

/-- Settles O14: the registers are those of R39, and each of the nine indices selects a register that is 0. -/
theorem resetStateValues : Obligations.ResetStateValues := by
  intro cfg
  exact ⟨rfl, rfl, rfl, rfl, rfl, rfl, rfl, rfl, rfl, rfl, rfl, rfl, rfl, rfl, rfl, rfl, rfl,
    fun _ => statusRegister_resetOf cfg⟩

/-- The session registers of the reset state are clear (R39, R121). -/
theorem sessionIsClear_resetOf (cfg : Config) : sessionIsClear (State.resetOf cfg) :=
  ⟨rfl, rfl, rfl, rfl, rfl, rfl, rfl, rfl, rfl, rfl, rfl, rfl, rfl, rfl, rfl⟩

/-- ClearSession clears every session register (R121). -/
theorem sessionIsClear_clearSession (s : State) : sessionIsClear s.clearSession :=
  ⟨rfl, rfl, rfl, rfl, rfl, rfl, rfl, rfl, rfl, rfl, rfl, rfl, rfl, rfl, rfl⟩

/-- The default parameters are allowed (R5). -/
theorem configOk_default : configOk defaultConfig := by
  refine ⟨le_rfl, fun cap hcap => ?_⟩
  cases hcap
  decide

/-! ## The invariants by the kind of session -/

/-- The invariants of a state without session (R38 (c)). -/
theorem inv_of_noSession {s : State} (hm : s.mode = .none) (params : configOk s.cfg)
    (queue : ∀ cap, s.cfg.ocap = some cap → s.dout.length ≤ cap) (hclear : sessionIsClear s) : Inv s := by
  have hclear' := hclear
  obtain ⟨-, herr, herrcode, herrdet, -⟩ := hclear'
  constructor <;> simp_all

/-- The invariants of a COMP session (R38 (d), (f)). -/
theorem inv_of_comp {s : State} (hm : s.mode = .comp) (params : configOk s.cfg)
    (queue : ∀ cap, s.cfg.ocap = some cap → s.dout.length ≤ cap)
    (errcode : s.err = false ↔ s.errcode = 0) (errdet : s.err = false → s.errdet = 0)
    (shape : s.pstate = .expectStreamHeader ∧ s.short = false ∧ s.gbuf = [])
    (isOpen : s.err = false → s.cls.toNat ≤ s.cfg.maxClass ∧ s.buf.length < s.bs)
    (closed : s.fin = true ∨ s.err = true → s.buf = [])
    (count : s.err = false → s.fin = false → s.totalin.toNat % s.bs = s.buf.length) : Inv s := by
  have hnone : s.mode ≠ .none := by simp [hm]
  have hdecomp : s.mode ≠ .decomp := by simp [hm]
  exact ⟨params, queue, errcode, errdet, fun h => absurd h hnone, fun _ => shape, fun _ => isOpen,
    fun _ => closed, fun _ => count, fun h => absurd h hdecomp, fun h => absurd h hdecomp,
    fun h => absurd h hdecomp, fun h => absurd h hdecomp, fun h => absurd h hdecomp,
    fun h => absurd h hdecomp⟩

/-- The invariants of a DECOMP session (R38 (e)). -/
theorem inv_of_decomp {s : State} (hm : s.mode = .decomp) (params : configOk s.cfg)
    (queue : ∀ cap, s.cfg.ocap = some cap → s.dout.length ≤ cap)
    (errcode : s.err = false ↔ s.errcode = 0) (errdet : s.err = false → s.errdet = 0)
    (shape : s.hdrsent = false ∧ s.buf = []) (error : s.pstate = .error ↔ s.err = true)
    (class_ : s.cls.toNat ≤ s.cfg.maxClass)
    (finished : s.fin = true → s.err = false → s.pstate = .done) (gather : gatherBound s)
    (body : s.pstate = .expectBlockBody → lengthsOk s.bs s.blkn.toNat s.blkp.toNat = true) : Inv s := by
  have hnone : s.mode ≠ .none := by simp [hm]
  have hcomp : s.mode ≠ .comp := by simp [hm]
  exact ⟨params, queue, errcode, errdet, fun h => absurd h hnone, fun h => absurd h hcomp,
    fun h => absurd h hcomp, fun h => absurd h hcomp, fun h => absurd h hcomp, fun _ => shape,
    fun _ => error, fun _ => class_, fun _ => finished, fun _ => gather, fun _ => body⟩

/-- The clauses speak of neither port (R40). -/
theorem Inv.withPorts {s : State} (h : Inv s) (cmds : List CommandWord) (rsp : Option Response) :
    Inv { s with cmds := cmds, rsp := rsp } :=
  ⟨h.params, h.queue, h.errcode, h.errdet, h.noSession, h.compShape, h.compOpen, h.compClosed, h.compCount,
    h.decompShape, h.decompError, h.decompClass, h.decompFinished, h.decompGather, h.decompBody⟩

/-- A response keeps the invariants (R94). -/
theorem Inv.respond {s : State} (h : Inv s) (st : Status) (d : BitVec 32) : Inv (s.respond st d) :=
  h.withPorts s.cmds (some ⟨st, d⟩)

/-- A shorter queue keeps the invariants. -/
theorem Inv.withDout {s : State} (h : Inv s) {out : List Byte}
    (hq : ∀ cap, s.cfg.ocap = some cap → out.length ≤ cap) : Inv { s with dout := out } :=
  ⟨h.params, hq, h.errcode, h.errdet, h.noSession, h.compShape, h.compOpen, h.compClosed, h.compCount,
    h.decompShape, h.decompError, h.decompClass, h.decompFinished, h.decompGather, h.decompBody⟩

/-- What is pushed unheld fits the queue (R38 (a), R70). -/
theorem Inv.queue_append {s : State} (h : Inv s) {out : List Byte} (hh : s.holds out.length = false) :
    ∀ cap, s.cfg.ocap = some cap → (s.dout ++ out).length ≤ cap := by
  intro cap hcap
  have hq := h.queue cap hcap
  rw [List.length_append]
  rcases (not_holds_iff s _).mp hh with hout | hroom
  · omega
  · exact hroom cap hcap

/-- Where ERR is set, the code that error entry leaves is an error's (R38 (b), R343). -/
theorem Inv.raised_errcode {s : State} (h : Inv s) (e : SessionError) :
    (if s.err then s.errcode else e.status.code) ≠ 0 := by
  split
  · next herr =>
    intro hzero
    simp [h.errcode.mpr hzero] at herr
  · exact e.code_ne_zero

/-! ## Commands that start or end a session -/

/-- The fresh COMP session of a supported class (R124). -/
theorem inv_cinit {s : State} (h : Inv s) {cls : Byte} (hc : cls.toNat ≤ s.cfg.maxClass) :
    Inv { s.clearSession with mode := .comp, cls := cls } := by
  refine inv_of_comp rfl h.params h.queue (by simp) (by simp) ⟨rfl, rfl, rfl⟩ (fun _ => ⟨hc, ?_⟩)
    (fun _ => rfl) (fun _ _ => by simp)
  simp [State.bs, blockSize]

/-- The COMP session that CINIT of an unsupported class leaves in error (R124). -/
theorem inv_cinit_failed {s : State} (h : Inv s) (cls : Byte) :
    Inv ({ s.clearSession with mode := .comp, cls := cls }.raise .unsupportedBlockSize .noDetail) := by
  refine inv_of_comp rfl h.params h.queue ?_ (by simp) ⟨rfl, rfl, rfl⟩ (by simp) (fun _ => rfl) (by simp)
  simpa using SessionError.code_ne_zero .unsupportedBlockSize

/-- The fresh DECOMP session (R125). -/
theorem inv_dinit {s : State} (h : Inv s) :
    Inv { s.clearSession with mode := .decomp, pstate := .expectStreamHeader } :=
  inv_of_decomp rfl h.params h.queue (by simp) (by simp) ⟨rfl, rfl⟩ (by simp) (by simp) (by simp)
    (by simp [gatherBound]) (by simp)

/-- ClearSession ends any session (R121). -/
theorem inv_clearSession {s : State} (h : Inv s) : Inv s.clearSession :=
  inv_of_noSession rfl h.params h.queue (sessionIsClear_clearSession s)

/-! ## A COMP session -/

/-- A block size is positive (R6). -/
theorem blockSize_pos (c : Nat) : 0 < blockSize c := by simp [blockSize]

/-- A supported block size divides `2^64`, so counting modulo it survives the wrap of TOTALIN (R38 (f)). -/
theorem blockSize_dvd {c : Nat} (hc : c ≤ 60) : blockSize c ∣ 2 ^ 64 := by
  have h16 : blockSize c = 2 ^ (4 + c) := by simp [blockSize, pow_add]
  rw [h16]
  exact pow_dvd_pow 2 (by omega)

/-- Counting one more byte, modulo a divisor of `2^64` (R34, R326). -/
theorem succ_toNat_mod {x : BitVec 64} {bs : Nat} (hbs : bs ∣ 2 ^ 64) :
    (x + 1).toNat % bs = (x.toNat % bs + 1) % bs := by
  rw [BitVec.toNat_add, Nat.mod_mod_of_dvd _ hbs]
  simp [Nat.add_mod]

/-- Error entry on a COMP session whose buffer is empty, FIN set or not (R122, R246). -/
theorem Inv.raise_comp {s : State} (h : Inv s) (hm : s.mode = .comp) (hbuf : s.buf = []) (f : Bool)
    (e : SessionError) (det : Detail) : Inv ({ s with fin := f }.raise e det) := by
  obtain ⟨hpstate, hshort, hgbuf⟩ := h.compShape hm
  refine inv_of_comp hm h.params h.queue ?_ (by simp) ⟨?_, hshort, hgbuf⟩ (by simp) (fun _ => hbuf) (by simp)
  · simpa using h.raised_errcode e
  · simp [hm, hpstate]

/-- A COMP session of a supported class moves on: any registers that are within the bounds (R243, R246). -/
theorem Inv.advance_comp {s : State} (h : Inv s) (hm : s.mode = .comp) (he : s.err = false) {t : State}
    (ht : t = { s with
      fin := t.fin, hdrsent := t.hdrsent, buf := t.buf, crcreg := t.crcreg, totalin := t.totalin,
      totalout := t.totalout, dout := t.dout, rsp := t.rsp })
    (queue : ∀ cap, s.cfg.ocap = some cap → t.dout.length ≤ cap) (buffer : t.buf.length < s.bs)
    (closed : t.fin = true → t.buf = [])
    (count : t.fin = false → t.totalin.toNat % s.bs = t.buf.length) : Inv t := by
  obtain ⟨hclass, -⟩ := h.compOpen hm he
  have hcfg : t.cfg = s.cfg := by rw [ht]
  have hcls : t.cls = s.cls := by rw [ht]
  have hbs : t.bs = s.bs := by rw [State.bs, hcls, State.bs]
  have herr : t.err = false := by rw [ht]; exact he
  refine inv_of_comp (by rw [ht]; exact hm) (hcfg ▸ h.params) (hcfg ▸ queue) (by rw [ht]; exact h.errcode)
    (by rw [ht]; exact h.errdet) (by rw [ht]; exact h.compShape hm) (fun _ => ?_) ?_
    (fun _ hfin => hbs ▸ count hfin)
  · rw [hbs, hcls, hcfg]
    exact ⟨hclass, buffer⟩
  · simpa [herr] using closed

/-- FEED in an open COMP session (R243). -/
theorem inv_cFeed {s : State} (h : Inv s) (hm : s.mode = .comp) (hf : s.fin = false) (he : s.err = false)
    (b : Byte) : Inv (cFeed b s) := by
  obtain ⟨hclass, hlt⟩ := h.compOpen hm he
  have hmax := h.params.1
  have hpos : 0 < s.bs := blockSize_pos _
  have hdvd : s.bs ∣ 2 ^ 64 := blockSize_dvd (by omega)
  have hsucc : (s.totalin + 1).toNat % s.bs = (s.buf.length + 1) % s.bs := by
    rw [succ_toNat_mod hdvd, h.compCount hm he hf]
  rcases cFeed_cases b s with ⟨hroom, ht⟩ | ⟨-, -, ht⟩ | ⟨hfull, hh, ht⟩ <;> rw [ht]
  · refine h.advance_comp hm he (by rfl) (by simpa using h.queue) ?_ (by simp [hf]) (fun _ => ?_)
    · simpa using hroom
    · simpa [Nat.mod_eq_of_lt hroom] using hsucc
  · exact h.respond _ _
  · refine h.advance_comp hm he (by rfl) (by simpa using h.queue_append hh) (by simpa using hpos) (by simp)
      (fun _ => ?_)
    simpa [show s.buf.length + 1 = s.bs by omega] using hsucc

/-- FINISH in a COMP session (R246). -/
theorem inv_cFinish {s : State} (h : Inv s) (hm : s.mode = .comp) : Inv (cFinish s) := by
  have hpos : 0 < s.bs := blockSize_pos _
  rcases cFinish_cases s with ⟨he, ht⟩ | ⟨-, -, ht⟩ | ⟨he, hh, ht⟩ <;> rw [ht]
  · exact h.raise_comp hm (h.compClosed hm (.inr he)) true _ _
  · exact h.respond _ _
  · exact h.advance_comp hm he (by rfl) (by simpa using h.queue_append hh) (by simpa using hpos) (by simp)
      (by simp)

/-! ## A DECOMP session -/

theorem lengthsOk_iff (bs n p : Nat) :
    lengthsOk bs n p = true ↔ 1 ≤ n ∧ n ≤ bs ∧ payMin ≤ p ∧ p ≤ payMax bs := by
  simp [lengthsOk, and_assoc]

/-- The value of a byte string is below 256 to its length (R8). -/
theorem fromBe_lt (bytes : List Byte) : fromBe bytes < 256 ^ bytes.length := by
  induction bytes with
  | nil => simp
  | cons b bytes ih =>
    rw [fromBe_cons, List.length_cons, pow_succ]
    have hb : b.toNat < 256 := b.isLt
    nlinarith

/-- A slice of a fixed width has a value below 256 to that width (R8). -/
theorem fromBe_slice_lt (bytes : List Byte) (i j : Nat) : fromBe (slice bytes i j) < 256 ^ (j - i) :=
  (fromBe_lt _).trans_le (Nat.pow_le_pow_right (by omega) (by simp [slice]))

/-- In every state of the parser GBUF is within the bound that holds in Error (R32, R296). -/
theorem Inv.gbuf_le {s : State} (h : Inv s) (hm : s.mode = .decomp) :
    s.gbuf.length ≤ payMax s.bs + 4 := by
  have hg := h.decompGather hm
  have hbody := h.decompBody hm
  have hmax : payMax s.bs = 164 + 3 * s.bs := rfl
  unfold gatherBound at hg
  cases hp : s.pstate <;> simp only [hp] at hg hbody
  case expectBlockBody =>
    obtain ⟨-, -, -, hle⟩ := (lengthsOk_iff _ _ _).mp (hbody trivial)
    omega
  case done => simp [hg]
  all_goals omega

/-- Error entry on a DECOMP session with GBUF within the bound of Error (R343). -/
theorem Inv.raise_decomp {s : State} (h : Inv s) (hm : s.mode = .decomp) {g : List Byte}
    (hg : g.length ≤ payMax s.bs + 4) (n : BitVec 64) (f : Bool) (e : SessionError) (det : Detail) :
    Inv ({ s with gbuf := g, totalin := n, fin := f }.raise e det) := by
  have hp : ({ s with gbuf := g, totalin := n, fin := f }.raise e det).pstate = .error := by simp [hm]
  refine inv_of_decomp hm h.params h.queue ?_ (by simp) (h.decompShape hm) (by simp [hm])
    (h.decompClass hm) (by simp) ?_ (fun hbody => by cases hp.symm.trans hbody)
  · simpa using h.raised_errcode e
  · rw [gatherBound, hp]
    exact hg

/-- The parser of an open DECOMP session moves on: any registers that are within the bounds (R272). -/
theorem Inv.advance_decomp {s : State} (h : Inv s) (hm : s.mode = .decomp) (hf : s.fin = false)
    (he : s.err = false) {t : State} (ht : t = { s with
      cls := t.cls, short := t.short, pstate := t.pstate, gbuf := t.gbuf, blkn := t.blkn, blkp := t.blkp,
      crcreg := t.crcreg, totalin := t.totalin, totalout := t.totalout, dout := t.dout, rsp := t.rsp })
    (queue : ∀ cap, s.cfg.ocap = some cap → t.dout.length ≤ cap)
    (hp : t.pstate ≠ .error) (class_ : t.cls.toNat ≤ s.cfg.maxClass) (gather : gatherBound t)
    (body : t.pstate = .expectBlockBody → lengthsOk t.bs t.blkn.toNat t.blkp.toNat = true) : Inv t := by
  have hpe : t.pstate = .error ↔ t.err = true := by
    rw [ht]
    simpa [he] using hp
  have hcfg : t.cfg = s.cfg := by rw [ht]
  refine inv_of_decomp (by rw [ht]; exact hm) (by rw [ht]; exact h.params) (hcfg ▸ queue)
    (by rw [ht]; exact h.errcode) (by rw [ht]; exact h.errdet) (by rw [ht]; exact h.decompShape hm) hpe
    (hcfg ▸ class_) (fun hfin => ?_) gather body
  rw [ht] at hfin
  simp [hf] at hfin

/-- An error on a gathered byte (R272, R343). -/
theorem Inv.raise_gather {s : State} (h : Inv s) (hm : s.mode = .decomp) {g : List Byte}
    (hg : g.length ≤ payMax s.bs + 4) (e : SessionError) (det : Detail) : Inv ((s.gather g).raise e det) :=
  h.raise_decomp hm hg (s.totalin + 1) s.fin e det

/-- Error entry by a command that the entry check of a terminal session refuses (R122). -/
theorem Inv.raise_terminal {s : State} (h : Inv s) (hm : s.mode ≠ .none) (ht : s.fin = true ∨ s.err = true)
    (e : SessionError) (det : Detail) : Inv (s.raise e det) := by
  cases hmode : s.mode with
  | none => exact absurd hmode hm
  | comp => exact h.raise_comp hmode (h.compClosed hmode ht) s.fin e det
  | decomp => exact h.raise_decomp hmode (h.gbuf_le hmode) s.totalin s.fin e det

section DecompFeed

variable {s : State} (h : Inv s) (hm : s.mode = .decomp) (hf : s.fin = false) (he : s.err = false)
  {g : List Byte}
include h hm hf he

/-- The stream header is complete (R274). -/
theorem inv_dStreamHeader (hg : g.length = 5) : Inv (dStreamHeader g (s.gather g)) := by
  have hle : g.length ≤ payMax s.bs + 4 := by rw [payMax]; omega
  rcases dStreamHeader_cases g (s.gather g) with ⟨-, ht⟩ | ⟨-, hc, ht⟩ | ⟨-, -, ht⟩ <;> rw [ht]
  · exact h.raise_gather hm hle _ _
  · refine h.advance_decomp hm hf he (by rfl) (by simpa using h.queue) (by simp) ?_ ?_ (by simp)
    · simpa [classSupported] using hc
    · simp [gatherBound]
  · exact h.raise_gather hm hle _ _

/-- The magic of a block header or of the end marker is complete (R275). -/
theorem inv_dMagic (hp : s.pstate = .expectBlockHeader) (hg : g.length = 2) :
    Inv (dMagic g (s.gather g)) := by
  have hle : g.length ≤ payMax s.bs + 4 := by rw [payMax]; omega
  rcases dMagic_cases g (s.gather g) with ⟨-, ht⟩ | ⟨-, -, ht⟩ | ⟨-, -, ht⟩ | ⟨-, -, ht⟩ <;> rw [ht]
  · exact h.advance_decomp hm hf he (by rfl) (by simpa using h.queue) (by simp) (by simpa using h.decompClass hm)
      (by simp [gatherBound]) (by simp)
  · exact h.advance_decomp hm hf he (by rfl) (by simpa using h.queue) (by simp [hp])
      (by simpa using h.decompClass hm) (by simp [gatherBound, hp, hg]) (by simp [hp])
  · exact h.raise_gather hm hle _ _
  · exact h.raise_gather hm hle _ _

/-- The block header is complete: the announced lengths fit their registers (R277, R327). -/
theorem inv_dLengths (hg : g.length = 7) : Inv (dLengths g (s.gather g)) := by
  have hle : g.length ≤ payMax s.bs + 4 := by rw [payMax]; omega
  rcases dLengths_cases g (s.gather g) with ⟨hok, ht⟩ | ⟨-, ht⟩ <;> rw [ht]
  · refine h.advance_decomp hm hf he (by rfl) (by simpa using h.queue) (by simp)
      (by simpa using h.decompClass hm) (by simp [gatherBound]) (fun _ => ?_)
    have hn : fromBe (slice g 2 4) < 2 ^ 16 := fromBe_slice_lt g 2 4
    have hp : fromBe (slice g 4 7) < 2 ^ 24 := fromBe_slice_lt g 4 7
    simp only [State.respond_blkn, State.respond_blkp, BitVec.toNat_ofNat, Nat.mod_eq_of_lt hn,
      Nat.mod_eq_of_lt hp]
    simpa [State.bs] using hok
  · exact h.raise_gather hm hle _ _

/-- The block body is complete (R280). -/
theorem inv_dBody (hp : s.pstate = .expectBlockBody) (hg : g.length = s.blkp.toNat + 4) :
    Inv (dBody g s) := by
  obtain ⟨-, -, -, hmax⟩ := (lengthsOk_iff _ _ _).mp (h.decompBody hm hp)
  rcases dBody_cases g s with ⟨det, -, ht⟩ | ⟨block, -, -, ht⟩ | ⟨block, -, hh, ht⟩ <;> rw [ht]
  · exact h.raise_gather hm (by omega) _ _
  · exact h.respond _ _
  · exact h.advance_decomp hm hf he (by rfl) (by simpa [releaseBlock] using h.queue_append hh)
      (by simp [releaseBlock]) (by simpa [releaseBlock] using h.decompClass hm)
      (by simp [gatherBound, releaseBlock]) (by simp [releaseBlock])

/-- The footer is complete (R286). -/
theorem inv_dFooter (hg : g.length = 12) : Inv (dFooter g (s.gather g)) := by
  have hle : g.length ≤ payMax s.bs + 4 := by rw [payMax]; omega
  rcases dFooter_cases g (s.gather g) with ⟨-, ht⟩ | ⟨-, -, ht⟩ | ⟨-, -, ht⟩ <;> rw [ht]
  · exact h.raise_gather hm hle _ _
  · exact h.raise_gather hm hle _ _
  · exact h.advance_decomp hm hf he (by rfl) (by simpa using h.queue) (by simp) (by simpa using h.decompClass hm)
      (by simp [gatherBound]) (by simp)

/-- A byte that completes no field stays within the bound of the field being collected (R272, R296). -/
theorem inv_gather_byte (b : Byte) (hdone : s.pstate ≠ .done)
    (hbody : s.pstate = .expectBlockBody → s.gbuf.length + 1 ≠ s.blkp.toNat + 4)
    (hstream : s.pstate = .expectStreamHeader → s.gbuf.length + 1 ≠ 5)
    (hblock : s.pstate = .expectBlockHeader → s.gbuf.length + 1 ≠ 7)
    (hfooter : s.pstate = .expectFooter → s.gbuf.length + 1 ≠ 12) :
    Inv ((s.gather (s.gbuf ++ [b])).respond .ok 0) := by
  have hperr : s.pstate ≠ .error := fun hp => by simp [(h.decompError hm).mp hp] at he
  have hgather := h.decompGather hm
  refine h.advance_decomp hm hf he (by rfl) (by simpa using h.queue) (by simpa using hperr)
    (by simpa using h.decompClass hm) ?_ (by simpa [State.bs] using h.decompBody hm)
  unfold gatherBound at hgather ⊢
  cases hp : s.pstate <;> simp_all <;> omega

/-- FEED in an open DECOMP session (R272). -/
theorem inv_dFeed (b : Byte) : Inv (dFeed b s) := by
  have hlen : (s.gbuf ++ [b]).length = s.gbuf.length + 1 := by simp
  rcases dFeed_cases b s with ⟨-, ht⟩ | ⟨hp, hg, ht⟩ | ⟨-, hg, ht⟩ | ⟨hp, hg, ht⟩ | ⟨-, hg, ht⟩ |
    ⟨-, hg, ht⟩ | ⟨hdone, hbody, hstream, hblock, hfooter, ht⟩ <;> rw [ht]
  · exact h.raise_gather hm (h.gbuf_le hm) _ _
  · exact inv_dBody h hm hf he hp (hlen.trans hg)
  · exact inv_dStreamHeader h hm hf he (hlen.trans hg)
  · exact inv_dMagic h hm hf he hp (hlen.trans hg)
  · exact inv_dLengths h hm hf he (hlen.trans hg)
  · exact inv_dFooter h hm hf he (hlen.trans hg)
  · exact inv_gather_byte h hm hf he b hdone hbody hstream (fun hp => (hblock hp).2) hfooter

end DecompFeed

/-- FINISH in a DECOMP session: a session in Done has no error (R290). -/
theorem inv_dFinish {s : State} (h : Inv s) (hm : s.mode = .decomp) : Inv (dFinish s) := by
  rcases dFinish_cases s with ⟨hp, ht⟩ | ⟨-, ht⟩ <;> rw [ht]
  · exact inv_of_decomp hm h.params h.queue h.errcode h.errdet (h.decompShape hm) (h.decompError hm)
      (h.decompClass hm) (fun _ _ => hp) (h.decompGather hm) (h.decompBody hm)
  · exact h.raise_decomp hm (h.gbuf_le hm) s.totalin true _ _

/-! ## Every step -/

/-- Every command keeps the invariants (R38). -/
theorem exec_keeps_inv {i : Instr} {s t : State} (h : Inv s) (ht : exec i s = .next t) : Inv t := by
  cases i with
  | nop => exact exec_nop_eq ht ▸ h.respond _ _
  | cinit cls =>
    rcases exec_cinit_cases ht with ⟨hc, rfl⟩ | ⟨-, rfl⟩
    · exact (inv_cinit h hc).respond _ _
    · exact inv_cinit_failed h cls
  | dinit => exact exec_dinit_eq ht ▸ (inv_dinit h).respond _ _
  | feed b =>
    rcases exec_feed_cases ht with ⟨-, rfl⟩ | ⟨hm, hfe, rfl⟩ | ⟨hm, hf, he, rfl⟩ | ⟨hm, hf, he, rfl⟩
    · exact h.respond _ _
    · exact h.raise_terminal hm hfe _ _
    · exact inv_cFeed h hm hf he b
    · exact inv_dFeed h hm hf he b
  | feede =>
    rcases exec_feede_cases ht with ⟨-, rfl⟩ | ⟨hm, hfe, rfl⟩ | ⟨-, -, -, rfl⟩
    · exact h.respond _ _
    · exact h.raise_terminal hm hfe _ _
    · exact h.respond _ _
  | finish =>
    rcases exec_finish_cases ht with ⟨-, rfl⟩ | ⟨hm, hf, rfl⟩ | ⟨hm, -, rfl⟩ | ⟨hm, -, rfl⟩
    · exact h.respond _ _
    · exact h.raise_terminal hm (.inl hf) _ _
    · exact inv_cFinish h hm
    · exact inv_dFinish h hm
  | pop =>
    rcases exec_pop_cases ht with ⟨-, rfl⟩ | ⟨b, rest, hd, rfl⟩
    · exact h.respond _ _
    · refine (h.withDout fun cap hcap => ?_).respond _ _
      have hq := h.queue cap hcap
      rw [hd, List.length_cons] at hq
      omega
  | rdsr idx =>
    obtain ⟨st, d, rfl⟩ := exec_rdsr_cases ht
    exact h.respond st d
  | drop => exact exec_drop_eq ht ▸ (inv_clearSession h).respond _ _
  | reset =>
    have hempty : Inv { s.clearSession with dout := [] } := (inv_clearSession h).withDout (by simp)
    exact exec_reset_eq ht ▸ hempty.respond _ _

/-- Settles O45: taking the word and answering an illegal one touch the ports only; every command keeps the
invariants. -/
theorem stepKeepsInv : Obligations.StepKeepsInv := by
  intro s t h hst
  rcases step_cases s with ⟨-, hs⟩ | ⟨w, rest, i, -, -, hs⟩ | ⟨w, rest, e, -, -, hs⟩ <;> rw [hs] at hst
  · cases hst
    exact h
  · exact exec_keeps_inv (h.withPorts rest s.rsp) hst
  · cases hst
    exact h.withPorts rest _

/-- The reset state of allowed parameters satisfies the invariants: no session, an empty queue (R39). -/
theorem inv_resetOf {cfg : Config} (hcfg : configOk cfg) : Inv (State.resetOf cfg) :=
  inv_of_noSession rfl hcfg (fun _ _ => Nat.zero_le _) (sessionIsClear_resetOf cfg)

/-- Settles O44: allowed parameters start the engine within the invariants, and the default ones are allowed. -/
theorem invAtReset : Obligations.InvAtReset :=
  ⟨fun _ hcfg => inv_resetOf hcfg, inv_resetOf configOk_default⟩

end Sys2Proof.Machine

/-! PROOFS of the family of 10_state.md, third part: a compressor session is a function of its class and of the
bytes it accepted (spec R38 (f), R241, R248, R249). First the part of the stream that is out before FINISH,
as the input grows by one byte; then the session. -/

namespace Sys2Proof.Machine

/-! ## The blocks of an input -/

@[simp] theorem blocksOf_nil (k bs : Nat) : blocksOf k bs [] = [] := by cases k <;> rfl

theorem blocksOf_succ (k bs : Nat) {bytes : List Byte} (h : bytes ≠ []) :
    blocksOf (k + 1) bs bytes = bytes.take bs :: blocksOf k bs (bytes.drop bs) := by
  cases bytes with
  | nil => exact absurd rfl h
  | cons b bytes => rfl

/-- Two bounds that the input's length meets give the same blocks. -/
theorem blocksOf_bound {bs : Nat} (hbs : 0 < bs) {k k' : Nat} {bytes : List Byte} (hk : bytes.length ≤ k)
    (hk' : bytes.length ≤ k') : blocksOf k bs bytes = blocksOf k' bs bytes := by
  induction k generalizing k' bytes with
  | zero => simp [List.length_eq_zero_iff.mp (Nat.le_zero.mp hk)]
  | succ k ih =>
    by_cases hnil : bytes = []
    · simp [hnil]
    · have hpos : 0 < bytes.length := List.length_pos_iff.mpr hnil
      obtain ⟨j, rfl⟩ : ∃ j, k' = j + 1 := ⟨k' - 1, by omega⟩
      rw [blocksOf_succ k bs hnil, blocksOf_succ j bs hnil,
        ih (k' := j) (by rw [List.length_drop]; omega) (by rw [List.length_drop]; omega)]

/-- The first block of an input and the blocks of the rest (R240). -/
theorem blocksOf_length_eq {bs : Nat} (hbs : 0 < bs) {bytes : List Byte} (h : bytes ≠ []) :
    blocksOf bytes.length bs bytes =
      bytes.take bs :: blocksOf (bytes.drop bs).length bs (bytes.drop bs) := by
  have hpos : 0 < bytes.length := List.length_pos_iff.mpr h
  obtain ⟨k, hk⟩ : ∃ k, bytes.length = k + 1 := ⟨bytes.length - 1, by omega⟩
  rw [hk, blocksOf_succ k bs h, blocksOf_bound hbs (by rw [List.length_drop]; omega) le_rfl]

/-- A non-empty input of at most one block is that block. -/
theorem blocksOf_single {bs : Nat} (hbs : 0 < bs) {bytes : List Byte} (h : bytes ≠ [])
    (hle : bytes.length ≤ bs) : blocksOf bytes.length bs bytes = [bytes] := by
  rw [blocksOf_length_eq hbs h, List.take_of_length_le hle, List.drop_of_length_le hle, blocksOf_nil]

/-- Whole blocks in front are cut first: the blocks of the two parts stand one after the other (R240). -/
theorem blocksOf_append {bs : Nat} (hbs : 0 < bs) (q : Nat) {x : List Byte} (hx : x.length = q * bs)
    (y : List Byte) :
    blocksOf (x ++ y).length bs (x ++ y) = blocksOf x.length bs x ++ blocksOf y.length bs y := by
  induction q generalizing x with
  | zero =>
    obtain rfl : x = [] := List.length_eq_zero_iff.mp (by simpa using hx)
    simp
  | succ q ih =>
    have hle : bs ≤ x.length := by rw [hx, Nat.succ_mul]; omega
    have hne : x ≠ [] := by
      rintro rfl
      simp at hle
      omega
    have hdrop : (x.drop bs).length = q * bs := by rw [List.length_drop, hx, Nat.succ_mul]; omega
    rw [blocksOf_length_eq hbs (List.append_ne_nil_of_left_ne_nil hne y), blocksOf_length_eq hbs hne,
      List.take_append_of_le_length hle, List.drop_append_of_le_length hle, ih hdrop, List.cons_append]

/-- The records of the blocks of an input, one after the other (R310). -/
def blockRecords (bs : Nat) (bytes : List Byte) : List Byte :=
  (blocksOf bytes.length bs bytes).flatMap blockRecord

@[simp] theorem blockRecords_nil (bs : Nat) : blockRecords bs [] = [] := rfl

theorem blockRecords_append {bs : Nat} (hbs : 0 < bs) (q : Nat) {x : List Byte} (hx : x.length = q * bs)
    (y : List Byte) : blockRecords bs (x ++ y) = blockRecords bs x ++ blockRecords bs y := by
  rw [blockRecords, blocksOf_append hbs q hx, List.flatMap_append, blockRecords, blockRecords]

theorem blockRecords_of_length_le {bs : Nat} (hbs : 0 < bs) {bytes : List Byte} (hle : bytes.length ≤ bs) :
    blockRecords bs bytes = if bytes = [] then [] else blockRecord bytes := by
  split
  · next h => simp [h]
  · next h => simp [blockRecords, blocksOf_single hbs h hle]

/-! ## The stream as the input grows -/

/-- The full blocks of an input, as one byte sequence (R240). -/
def wholeBlocks (bs : Nat) (input : List Byte) : List Byte := input.take (input.length / bs * bs)

/-- The bytes after the last full block, which BUF holds (R241). -/
def openBlock (bs : Nat) (input : List Byte) : List Byte := input.drop (input.length / bs * bs)

theorem wholeBlocks_append_openBlock (bs : Nat) (input : List Byte) :
    wholeBlocks bs input ++ openBlock bs input = input := List.take_append_drop _ _

theorem wholeBlocks_length (bs : Nat) (input : List Byte) :
    (wholeBlocks bs input).length = input.length / bs * bs := by
  rw [wholeBlocks, List.length_take]
  exact min_eq_left (Nat.div_mul_le_self _ _)

theorem openBlock_length (bs : Nat) (input : List Byte) :
    (openBlock bs input).length = input.length % bs := by
  have hdiv := Nat.div_add_mod' input.length bs
  rw [openBlock, List.length_drop]
  omega

/-- The records of an input: those of its full blocks, then that of the short one (R310). -/
theorem blockRecords_eq {bs : Nat} (hbs : 0 < bs) (input : List Byte) :
    blockRecords bs input = blockRecords bs (wholeBlocks bs input) ++
      (if openBlock bs input = [] then [] else blockRecord (openBlock bs input)) := by
  have hle : (openBlock bs input).length ≤ bs := by
    rw [openBlock_length]
    exact (Nat.mod_lt _ hbs).le
  rw [← blockRecords_of_length_le hbs hle, ← blockRecords_append hbs _ (wholeBlocks_length bs input),
    wholeBlocks_append_openBlock]

/-- The header, owed while the input is shorter than a block (R242). -/
def headerOwed (input : List Byte) (cls : BitVec 8) : List Byte :=
  if blockSize cls.toNat ≤ input.length then [] else streamHeader cls

/-- What is out, then the header where it is still owed: the header and the records of the full blocks. -/
theorem fullBlocksPart_append_headerOwed (input : List Byte) (cls : BitVec 8) :
    fullBlocksPart input cls ++ headerOwed input cls =
      streamHeader cls ++ blockRecords (blockSize cls.toNat) (wholeBlocks (blockSize cls.toNat) input) := by
  have hrecords : (blocksOf input.length (blockSize cls.toNat)
      (wholeBlocks (blockSize cls.toNat) input)).flatMap blockRecord =
        blockRecords (blockSize cls.toNat) (wholeBlocks (blockSize cls.toNat) input) := by
    have hle : (wholeBlocks (blockSize cls.toNat) input).length ≤ input.length := List.length_take_le' _ _
    rw [blockRecords, blocksOf_bound (blockSize_pos _) hle le_rfl]
  have hpart : fullBlocksPart input cls =
      (if input.length < blockSize cls.toNat then [] else streamHeader cls) ++
        blockRecords (blockSize cls.toNat) (wholeBlocks (blockSize cls.toNat) input) := by
    rw [← hrecords]
    rfl
  rw [hpart, headerOwed]
  by_cases h : input.length < blockSize cls.toNat
  · simp [h, wholeBlocks, Nat.div_eq_of_lt h]
  · simp [h, Nat.le_of_not_lt h]

section GrowByOne

variable {bs : Nat} (input : List Byte) (b : Byte)

/-- One more byte in an open block that it does not complete. -/
theorem div_snoc_of_lt (h : input.length % bs + 1 < bs) :
    (input ++ [b]).length / bs = input.length / bs := by
  have hdiv := Nat.div_add_mod' input.length bs
  rw [List.length_append, List.length_singleton]
  refine Nat.div_eq_of_lt_le (by omega) ?_
  rw [Nat.succ_mul]
  omega

/-- One more byte that completes the open block. -/
theorem length_snoc_of_eq (h : input.length % bs + 1 = bs) :
    (input ++ [b]).length = (input.length / bs + 1) * bs := by
  have hdiv := Nat.div_add_mod' input.length bs
  rw [List.length_append, List.length_singleton, Nat.succ_mul]
  omega

theorem wholeBlocks_snoc_of_lt (h : input.length % bs + 1 < bs) :
    wholeBlocks bs (input ++ [b]) = wholeBlocks bs input := by
  rw [wholeBlocks, div_snoc_of_lt input b h, List.take_append_of_le_length (Nat.div_mul_le_self _ _),
    wholeBlocks]

theorem openBlock_snoc_of_lt (h : input.length % bs + 1 < bs) :
    openBlock bs (input ++ [b]) = openBlock bs input ++ [b] := by
  rw [openBlock, div_snoc_of_lt input b h, List.drop_append_of_le_length (Nat.div_mul_le_self _ _),
    openBlock]

theorem div_mul_snoc_of_eq (h : input.length % bs + 1 = bs) :
    (input ++ [b]).length / bs * bs = (input ++ [b]).length := by
  rw [length_snoc_of_eq input b h, Nat.mul_div_cancel _ (by omega)]

theorem wholeBlocks_snoc_of_eq (h : input.length % bs + 1 = bs) :
    wholeBlocks bs (input ++ [b]) = input ++ [b] := by
  rw [wholeBlocks, div_mul_snoc_of_eq input b h, List.take_length]

theorem openBlock_snoc_of_eq (h : input.length % bs + 1 = bs) : openBlock bs (input ++ [b]) = [] := by
  rw [openBlock, div_mul_snoc_of_eq input b h, List.drop_length]

/-- The input reaches a block's length only with the byte that completes the first block. -/
theorem le_length_snoc_of_lt (h : input.length % bs + 1 < bs) :
    bs ≤ (input ++ [b]).length ↔ bs ≤ input.length := by
  rw [List.length_append, List.length_singleton]
  refine ⟨fun hle => ?_, fun hle => by omega⟩
  by_contra hlt
  rw [Nat.mod_eq_of_lt (by omega)] at h
  omega

theorem le_length_snoc_of_eq (h : input.length % bs + 1 = bs) : bs ≤ (input ++ [b]).length := by
  have hmod := Nat.mod_le input.length bs
  rw [List.length_append, List.length_singleton]
  omega

end GrowByOne

/-- A byte that completes no block puts nothing out (R243). -/
theorem fullBlocksPart_snoc_of_lt (input : List Byte) (b : Byte) (cls : BitVec 8)
    (h : input.length % blockSize cls.toNat + 1 < blockSize cls.toNat) :
    fullBlocksPart (input ++ [b]) cls = fullBlocksPart input cls := by
  have howed : headerOwed (input ++ [b]) cls = headerOwed input cls := by
    simp only [headerOwed, le_length_snoc_of_lt input b h]
  refine List.append_cancel_right (bs := headerOwed input cls) ?_
  rw [← howed, fullBlocksPart_append_headerOwed, wholeBlocks_snoc_of_lt input b h, howed,
    fullBlocksPart_append_headerOwed]

/-- A byte that completes a block puts out its record, behind the header where that is owed (R242, R243). -/
theorem fullBlocksPart_snoc_of_eq (input : List Byte) (b : Byte) (cls : BitVec 8)
    (h : input.length % blockSize cls.toNat + 1 = blockSize cls.toNat) :
    fullBlocksPart (input ++ [b]) cls = fullBlocksPart input cls ++ headerOwed input cls ++
      blockRecord (openBlock (blockSize cls.toNat) input ++ [b]) := by
  have hpaid : headerOwed (input ++ [b]) cls = [] := if_pos (le_length_snoc_of_eq input b h)
  have hblock : blockRecords (blockSize cls.toNat) (openBlock (blockSize cls.toNat) input ++ [b]) =
      blockRecord (openBlock (blockSize cls.toNat) input ++ [b]) := by
    rw [blockRecords_of_length_le (blockSize_pos _), if_neg (by simp)]
    simp [openBlock_length, h]
  calc fullBlocksPart (input ++ [b]) cls
      = fullBlocksPart (input ++ [b]) cls ++ headerOwed (input ++ [b]) cls := by simp [hpaid]
    _ = streamHeader cls ++ blockRecords (blockSize cls.toNat)
          (wholeBlocks (blockSize cls.toNat) input ++ (openBlock (blockSize cls.toNat) input ++ [b])) := by
        rw [fullBlocksPart_append_headerOwed, wholeBlocks_snoc_of_eq input b h, ← List.append_assoc,
          wholeBlocks_append_openBlock]
    _ = _ := by
        rw [blockRecords_append (blockSize_pos _) _ (wholeBlocks_length _ _), hblock,
          fullBlocksPart_append_headerOwed, List.append_assoc]

/-- The stream of an input: what is out before FINISH, then what FINISH puts out (R246, R310). -/
theorem stream_eq (input : List Byte) (cls : BitVec 8) :
    stream input cls = fullBlocksPart input cls ++ (headerOwed input cls ++
      (if openBlock (blockSize cls.toNat) input = [] then []
        else blockRecord (openBlock (blockSize cls.toNat) input)) ++ endMarker ++
      footer (crc32 input) (BitVec.ofNat 64 input.length)) := by
  have hrecords : stream input cls = streamHeader cls ++ blockRecords (blockSize cls.toNat) input ++
      endMarker ++ footer (crc32 input) (BitVec.ofNat 64 input.length) := rfl
  rw [hrecords, blockRecords_eq (blockSize_pos _), ← List.append_assoc (streamHeader cls),
    ← fullBlocksPart_append_headerOwed]
  simp only [List.append_assoc]

/-! ## A compressor session and its history -/

section History

variable {s : State} {input : List Byte} (h : CompHistory s input)
include h

theorem CompHistory.buf_eq : s.buf = openBlock s.bs input := h.buffer

theorem CompHistory.buf_length : s.buf.length = input.length % s.bs := by
  rw [h.buf_eq, openBlock_length]

theorem CompHistory.pendingHeader_eq : s.pendingHeader = headerOwed input s.cls := by
  have hheader := h.header
  rw [State.bs] at hheader
  by_cases hle : blockSize s.cls.toNat ≤ input.length <;>
    simp [State.pendingHeader, headerOwed, hheader, hle]

/-- The block that a FEED cuts is the next part of the stream (R243). -/
theorem CompHistory.blockOutput_eq (b : Byte) (hfull : input.length % s.bs + 1 = s.bs) :
    fullBlocksPart (input ++ [b]) s.cls = fullBlocksPart input s.cls ++ blockOutput s b := by
  rw [fullBlocksPart_snoc_of_eq input b s.cls hfull, blockOutput, h.pendingHeader_eq, h.buf_eq,
    List.append_assoc]
  rfl

/-- FINISH puts out the rest of the stream (R246, R248). -/
theorem CompHistory.finishOutput_eq :
    stream input s.cls = fullBlocksPart input s.cls ++ finishOutput s := by
  have hcrc : crc32 input = crcFinish s.crcreg := by rw [crc32, h.crc]
  rw [stream_eq, finishOutput, h.pendingHeader_eq, h.buf_eq, hcrc, h.count]
  rfl

/-- The checksum and the count after one more byte (R33, R34). -/
theorem CompHistory.crc_snoc (b : Byte) : crcStep s.crcreg b = crcSteps crcInit (input ++ [b]) := by
  rw [h.crc, crcSteps_append, crcSteps_cons, crcSteps_nil]

theorem CompHistory.count_snoc (b : Byte) : s.totalin + 1 = BitVec.ofNat 64 (input ++ [b]).length := by
  rw [h.count, List.length_append, List.length_singleton, BitVec.ofNat_add]
  rfl

/-- One more byte accepted: what BUF and HDRSENT must be then. -/
theorem CompHistory.extend {t : State} {b : Byte} (mode : t.mode = s.mode) (fin : t.fin = s.fin)
    (err : t.err = s.err) (cls : t.cls = s.cls) (crc : t.crcreg = crcStep s.crcreg b)
    (count : t.totalin = s.totalin + 1) (buffer : t.buf = openBlock s.bs (input ++ [b]))
    (header : t.hdrsent = decide (s.bs ≤ (input ++ [b]).length)) : CompHistory t (input ++ [b]) := by
  have hbs : t.bs = s.bs := by rw [State.bs, cls, State.bs]
  refine ⟨mode.trans h.mode, fin.trans h.fin, err.trans h.err, crc.trans (h.crc_snoc b),
    count.trans (h.count_snoc b), ?_, ?_⟩
  · rw [buffer, hbs, openBlock]
  · rw [header, hbs]

/-- A byte buffered extends the history (R241, R243). -/
theorem CompHistory.buffer_byte (b : Byte) (hroom : s.buf.length + 1 < s.bs) :
    CompHistory ({ s.acceptOriginal b with buf := s.buf ++ [b] }.respond .ok 0) (input ++ [b]) := by
  rw [h.buf_length] at hroom
  refine h.extend (by simp) (by simp) (by simp) (by simp) (by simp) (by simp) ?_ ?_
  · simp [openBlock_snoc_of_lt input b hroom, h.buf_eq]
  · simp only [State.respond_hdrsent, State.acceptOriginal_hdrsent, h.header,
      le_length_snoc_of_lt input b hroom]

/-- A block cut extends the history: BUF is empty and the header is out (R242, R243). -/
theorem CompHistory.cut_block (b : Byte) (hfull : input.length % s.bs + 1 = s.bs) (out : List Byte) :
    CompHistory ({ s.acceptOriginal b with buf := [], hdrsent := true }.deliver out) (input ++ [b]) := by
  refine h.extend (by simp) (by simp) (by simp) (by simp) (by simp) (by simp) ?_ ?_
  · simp [openBlock_snoc_of_eq input b hfull]
  · simp only [State.deliver_hdrsent, le_length_snoc_of_eq input b hfull, decide_true]

/-- BUF never holds a whole block, so a FEED that cuts one completes it. -/
theorem CompHistory.full_of_le (hle : s.bs ≤ s.buf.length + 1) : input.length % s.bs + 1 = s.bs := by
  have hlt : input.length % s.bs < s.bs := Nat.mod_lt _ (blockSize_pos _)
  rw [h.buf_length] at hle
  omega

/-- A FEED of a COMP session that is open runs CFeed (R126). -/
theorem CompHistory.exec_feed {t : State} {b : Byte} (ht : exec (.feed b) s = .next t) : t = cFeed b s := by
  rcases exec_feed_cases ht with ⟨hm, -⟩ | ⟨-, hfe, -⟩ | ⟨-, -, -, ht⟩ | ⟨hm, -⟩
  · simp [h.mode] at hm
  · simp [h.fin, h.err] at hfe
  · exact ht
  · simp [h.mode] at hm

/-- A FINISH of a COMP session that is open runs CFinish (R130). -/
theorem CompHistory.exec_finish {t : State} (ht : exec .finish s = .next t) : t = cFinish s := by
  rcases exec_finish_cases ht with ⟨hm, -⟩ | ⟨-, hf, -⟩ | ⟨-, -, ht⟩ | ⟨hm, -⟩
  · simp [h.mode] at hm
  · simp [h.fin] at hf
  · exact ht
  · simp [h.mode] at hm

/-- An open session accepts the byte of a FEED that is not held (R34). -/
theorem CompHistory.accepted_feed {b : Byte} (hheld : lastStatus (after (.feed b) s) ≠ some .outputFull) :
    accepted (.feed b) s = [b] :=
  accepted_feed_open b s (by simp [h.mode]) h.fin h.err hheld

/-- The history after a FEED that is not held. -/
theorem CompHistory.feed {t : State} {b : Byte} (ht : exec (.feed b) s = .next t)
    (hheld : lastStatus t ≠ some .outputFull) : CompHistory t (input ++ [b]) := by
  obtain rfl := h.exec_feed ht
  rcases cFeed_cases b s with ⟨hroom, ht⟩ | ⟨-, -, ht⟩ | ⟨hle, -, ht⟩ <;> rw [ht] at hheld ⊢
  · exact h.buffer_byte b hroom
  · simp at hheld
  · exact h.cut_block b (h.full_of_le hle) _

end History

/-! ## The session and what it has pushed -/

/-- The session that CINIT opens has accepted and pushed nothing (R124, R241). -/
theorem compStream_cinit (s : State) (cls : Byte) :
    CompStream cls s.dout [] [] ({ s.clearSession with mode := .comp, cls := cls }.respond .ok 0) := by
  have hpos := blockSize_pos cls.toNat
  have hnothing : fullBlocksPart [] cls = [] := by simp [fullBlocksPart, hpos]
  refine ⟨⟨rfl, rfl, rfl, rfl, rfl, by simp, ?_⟩, rfl, by simp [hnothing], by simp [hnothing]⟩
  simpa [State.bs] using hpos.ne'

section Stream

variable {cls : Byte} {before sent input : List Byte} {s : State} (h : CompStream cls before sent input s)
include h

/-- A session that has accepted and pushed nothing more, after some bytes were received (R69). -/
theorem CompStream.withPorts {got rest : List Byte} (hd : s.dout = got ++ rest) (rsp : Option Response) :
    CompStream cls before (sent ++ got) input { s with dout := rest, rsp := rsp } := by
  refine ⟨⟨h.history.mode, h.history.fin, h.history.err, h.history.crc, h.history.count, h.history.buffer,
    h.history.header⟩, h.class_, ?_, h.total⟩
  rw [← h.output, hd, List.append_assoc]

/-- A response leaves the session (R94). -/
theorem CompStream.respond (st : Status) (d : BitVec 32) :
    CompStream cls before sent input (s.respond st d) := by
  have hports := h.withPorts (got := []) rfl (some ⟨st, d⟩)
  rwa [List.append_nil] at hports

/-- POP hands the front byte to the host (R69, R128). -/
theorem CompStream.pop {t : State} (ht : exec .pop s = .next t) :
    CompStream cls before (sent ++ received .pop s) input t := by
  rcases exec_pop_cases ht with ⟨hd, rfl⟩ | ⟨b, rest, hd, rfl⟩
  · rw [received_pop_nil s hd, List.append_nil]
    exact h.respond _ _
  · rw [received_pop_cons s b rest hd]
    exact h.withPorts (got := [b]) hd _

/-- A session that has pushed `out` as the next part of its stream: DOUT and TOTALOUT (R34, R69). -/
theorem CompStream.output_append {out next : List Byte} (hnext : next = fullBlocksPart input cls ++ out) :
    sent ++ (s.dout ++ out) = before ++ next ∧
      s.totalout + BitVec.ofNat 64 out.length = BitVec.ofNat 64 next.length := by
  rw [hnext, ← List.append_assoc, h.output, List.append_assoc, h.total, List.length_append, BitVec.ofNat_add]
  exact ⟨rfl, rfl⟩

/-- A FEED extends the session by its byte, unless it is held (R70, R243). -/
theorem CompStream.feed {t : State} {b : Byte} (ht : exec (.feed b) s = .next t) :
    CompStream cls before sent (input ++ accepted (.feed b) s) t := by
  have hist := h.history
  obtain rfl := h.class_
  have hafter : after (.feed b) s = cFeed b s := hist.exec_feed ht ▸ after_of_exec ht
  obtain rfl := hist.exec_feed ht
  rcases cFeed_cases b s with ⟨hroom, hb⟩ | ⟨-, -, hb⟩ | ⟨hle, -, hb⟩ <;> rw [hb] at hafter ⊢
  · have hpart : fullBlocksPart (input ++ [b]) s.cls = fullBlocksPart input s.cls :=
      fullBlocksPart_snoc_of_lt input b s.cls (hist.buf_length ▸ hroom)
    rw [hist.accepted_feed (by simp [hafter])]
    exact ⟨hist.buffer_byte b hroom, by simp, by simpa [hpart] using h.output, by simpa [hpart] using h.total⟩
  · rw [accepted_of_held _ _ (by simp [hafter]), List.append_nil]
    exact h.respond _ _
  · have hfull := hist.full_of_le hle
    obtain ⟨hout, htotal⟩ := h.output_append (hist.blockOutput_eq b hfull)
    rw [hist.accepted_feed (by simp [hafter])]
    exact ⟨hist.cut_block b hfull _, by simp, by simpa using hout, by simpa using htotal⟩

/-- An executed FINISH has put the whole stream out; a held one leaves the session (R70, R246). -/
theorem CompStream.finish {t : State} (ht : exec .finish s = .next t) :
    (t.fin = false ∧ CompStream cls before sent input t) ∨
    (t.fin = true ∧ t.err = false ∧ lastStatus t = some .ok ∧ sent ++ t.dout = before ++ stream input cls ∧
      t.totalout = BitVec.ofNat 64 (stream input cls).length) := by
  have hist := h.history
  obtain rfl := h.class_
  obtain rfl := hist.exec_finish ht
  rcases cFinish_cases s with ⟨he, -⟩ | ⟨-, -, hb⟩ | ⟨-, -, hb⟩
  · simp [hist.err] at he
  · rw [hb]
    exact .inl ⟨hist.fin, h.respond _ _⟩
  · obtain ⟨hout, htotal⟩ := h.output_append hist.finishOutput_eq
    rw [hb]
    exact .inr ⟨rfl, hist.err, rfl, hout, htotal⟩

/-- Every command that keeps a session and does not finish it extends it by what it accepts and what the host
receives (R248). -/
theorem CompStream.step {i : Instr} {t : State} (hk : keepsSession i = true) (hi : i ≠ .finish)
    (ht : exec i s = .next t) :
    CompStream cls before (sent ++ received i s) (input ++ accepted i s) t := by
  have hist := h.history
  have silent {st : Status} {d : BitVec 32} (hpop : i ≠ .pop) (hfeed : ∀ b, i ≠ .feed b) :
      CompStream cls before (sent ++ received i s) (input ++ accepted i s) (s.respond st d) := by
    rw [received_of_not_pop s hpop, accepted_of_not_feed s hfeed, List.append_nil, List.append_nil]
    exact h.respond st d
  cases i with
  | nop => exact exec_nop_eq ht ▸ silent nofun nofun
  | feed b =>
    rw [received_of_not_pop s (by simp), List.append_nil]
    exact h.feed ht
  | feede =>
    rcases exec_feede_cases ht with ⟨hm, -⟩ | ⟨-, hfe, -⟩ | ⟨-, -, -, rfl⟩
    · simp [hist.mode] at hm
    · simp [hist.fin, hist.err] at hfe
    · exact silent nofun nofun
  | pop =>
    rw [accepted_of_not_feed s (by simp), List.append_nil]
    exact h.pop ht
  | rdsr idx =>
    obtain ⟨st, d, rfl⟩ := exec_rdsr_cases ht
    exact silent nofun nofun
  | finish => exact absurd rfl hi
  | cinit _ | dinit | drop | reset => cases hk

end Stream

/-- Settles O26: CINIT opens the empty session, each command extends it, and an executed FINISH closes it. -/
theorem compressorStateIsItsHistory : Obligations.CompressorStateIsItsHistory := by
  refine ⟨fun s t cls hc ht => ?_, fun i s t cls before sent input h hk ht => ?_,
    fun s t input b h ht hheld => h.feed ht hheld⟩
  · rcases exec_cinit_cases ht with ⟨-, rfl⟩ | ⟨hlt, -⟩
    · exact compStream_cinit s cls
    · omega
  · by_cases hi : i = .finish
    · subst hi
      rw [received_of_not_pop s (by simp), accepted_of_not_feed s (by simp), List.append_nil, List.append_nil]
      rcases h.finish ht with ⟨hfin, hstream⟩ | ⟨hfin, hclosed⟩
      · exact ⟨fun _ => hstream, fun hfin' => by simp [hfin] at hfin'⟩
      · exact ⟨fun hfin' => by simp [hfin] at hfin', fun _ => ⟨rfl, hclosed⟩⟩
    · have hstream := h.step hk hi ht
      exact ⟨fun _ => hstream, fun hfin => by simp [hstream.history.fin] at hfin⟩

end Sys2Proof.Machine

/-! PROOFS of the family of 20_memory.md, first part: which commands are held (spec R70, R389). -/

namespace Sys2Proof.Machine

/-! ## Where OutputFull comes from -/

@[simp] theorem lastStatus_corrupt (s : State) (det : Detail) :
    lastStatus (s.corrupt det) = some .corruptStream := rfl

/-- A completed stream header is never held (R274). -/
theorem dStreamHeader_not_held (g : List Byte) (s : State) :
    lastStatus (dStreamHeader g s) ≠ some .outputFull := by
  rcases dStreamHeader_cases g s with ⟨-, h⟩ | ⟨-, -, h⟩ | ⟨-, -, h⟩ <;> simp [h]

/-- A completed magic is never held (R275). -/
theorem dMagic_not_held (g : List Byte) (s : State) : lastStatus (dMagic g s) ≠ some .outputFull := by
  rcases dMagic_cases g s with ⟨-, h⟩ | ⟨-, -, h⟩ | ⟨-, -, h⟩ | ⟨-, -, h⟩ <;> simp [h]

/-- A completed block header is never held (R277). -/
theorem dLengths_not_held (g : List Byte) (s : State) : lastStatus (dLengths g s) ≠ some .outputFull := by
  rcases dLengths_cases g s with ⟨-, h⟩ | ⟨-, h⟩ <;> simp [h]

/-- A completed footer is never held (R286). -/
theorem dFooter_not_held (g : List Byte) (s : State) : lastStatus (dFooter g s) ≠ some .outputFull := by
  rcases dFooter_cases g s with ⟨-, h⟩ | ⟨-, -, h⟩ | ⟨-, -, h⟩ <;> simp [h]

/-- FINISH of a DECOMP session pushes nothing, so it is never held (R290). -/
theorem dFinish_not_held (s : State) : lastStatus (dFinish s) ≠ some .outputFull := by
  rcases dFinish_cases s with ⟨-, h⟩ | ⟨-, h⟩ <;> simp [h]

/-- A completed block body is held only for its decoded block (R280). -/
theorem dBody_held {g : List Byte} {s : State} (h : lastStatus (dBody g s) = some .outputFull) :
    ∃ block, checkBody s g = .ok block ∧ s.holds block.length = true ∧ dBody g s = s.hold block.length := by
  rcases dBody_cases g s with ⟨det, -, ht⟩ | hheld | ⟨block, -, -, ht⟩
  · simp [ht] at h
  · exact hheld
  · simp [ht, releaseBlock] at h

/-- A FEED of a COMP session is held only for the block it completes (R243). -/
theorem cFeed_held {b : Byte} {s : State} (h : lastStatus (cFeed b s) = some .outputFull) :
    s.bs ≤ s.buf.length + 1 ∧ s.holds (blockOutput s b).length = true ∧
      cFeed b s = s.hold (blockOutput s b).length := by
  rcases cFeed_cases b s with ⟨-, ht⟩ | hheld | ⟨-, -, ht⟩
  · simp [ht] at h
  · exact hheld
  · simp [ht] at h

/-- A FINISH of a COMP session is held only for the end of the stream (R246). -/
theorem cFinish_held {s : State} (h : lastStatus (cFinish s) = some .outputFull) :
    s.err = false ∧ s.holds (finishOutput s).length = true ∧
      cFinish s = s.hold (finishOutput s).length := by
  rcases cFinish_cases s with ⟨-, ht⟩ | hheld | ⟨-, -, ht⟩
  · simp [ht] at h
  · exact hheld
  · simp [ht] at h

/-- A FEED of a DECOMP session is held only for the block whose body it completes (R280). -/
theorem dFeed_held {b : Byte} {s : State} (h : lastStatus (dFeed b s) = some .outputFull) :
    s.pstate = .expectBlockBody ∧ s.gbuf.length + 1 = s.blkp.toNat + 4 ∧
      ∃ block, checkBody s (s.gbuf ++ [b]) = .ok block ∧ s.holds block.length = true ∧
        dFeed b s = s.hold block.length := by
  rcases dFeed_cases b s with ⟨-, ht⟩ | ⟨hp, hg, ht⟩ | ⟨-, -, ht⟩ | ⟨-, -, ht⟩ | ⟨-, -, ht⟩ |
    ⟨-, -, ht⟩ | ⟨-, -, -, -, -, ht⟩ <;> rw [ht] at h
  · simp [dDone] at h
  · exact ⟨hp, hg, ht ▸ dBody_held h⟩
  · exact absurd h (dStreamHeader_not_held _ _)
  · exact absurd h (dMagic_not_held _ _)
  · exact absurd h (dLengths_not_held _ _)
  · exact absurd h (dFooter_not_held _ _)
  · simp at h

/-- Only FEED and FINISH are ever held (R70). -/
theorem feed_or_finish_of_held {i : Instr} {s t : State} (ht : exec i s = .next t)
    (h : lastStatus t = some .outputFull) : (∃ b, i = .feed b) ∨ i = .finish := by
  cases i with
  | feed b => exact .inl ⟨b, rfl⟩
  | finish => exact .inr rfl
  | nop => simp [exec_nop_eq ht] at h
  | dinit => simp [exec_dinit_eq ht] at h
  | drop => simp [exec_drop_eq ht] at h
  | reset => simp [exec_reset_eq ht] at h
  | cinit cls => rcases exec_cinit_cases ht with ⟨-, rfl⟩ | ⟨-, rfl⟩ <;> simp at h
  | feede => rcases exec_feede_cases ht with ⟨-, rfl⟩ | ⟨-, -, rfl⟩ | ⟨-, -, -, rfl⟩ <;> simp at h
  | pop => rcases exec_pop_cases ht with ⟨-, rfl⟩ | ⟨b, rest, -, rfl⟩ <;> simp at h
  | rdsr idx =>
    simp only [exec, execRdsr] at ht
    cases hv : statusRegister s idx <;> simp [hv, illegalCommand] at ht <;> simp [← ht] at h

/-- What does not fit is not empty and exceeds the capacity of DOUT (R70). -/
theorem exceeds_of_holds {s : State} {n : Nat} (h : s.holds n = true) :
    ∃ cap, s.cfg.ocap = some cap ∧ 0 < n ∧ cap < s.dout.length + n := by
  obtain ⟨hn, cap, hcap, hlt⟩ := (holds_iff s n).mp h
  exact ⟨cap, hcap, Nat.pos_of_ne_zero hn, hlt⟩

/-- Settles O39: each of the three bodies that can answer OutputFull names the output that does not fit. -/
theorem heldCommandChangesNothing : Obligations.HeldCommandChangesNothing := by
  intro i s t ht h
  rcases feed_or_finish_of_held ht h with ⟨b, rfl⟩ | rfl
  · rcases exec_feed_cases ht with ⟨-, rfl⟩ | ⟨-, -, rfl⟩ | ⟨hm, hf, he, rfl⟩ | ⟨hm, hf, he, rfl⟩
    · simp at h
    · simp at h
    · obtain ⟨hfull, hholds, heq⟩ := cFeed_held h
      obtain ⟨cap, hcap, hpos, hlt⟩ := exceeds_of_holds hholds
      exact ⟨hf, he, blockOutput s b, cap, by simpa [hm] using hfull, hcap, hpos, hlt, heq⟩
    · obtain ⟨hp, hg, block, hcheck, hholds, heq⟩ := dFeed_held h
      obtain ⟨cap, hcap, hpos, hlt⟩ := exceeds_of_holds hholds
      exact ⟨hf, he, block, cap, by rw [hm]; exact ⟨hp, hg, hcheck⟩, hcap, hpos, hlt, heq⟩
  · rcases exec_finish_cases ht with ⟨-, rfl⟩ | ⟨-, -, rfl⟩ | ⟨hm, hf, rfl⟩ | ⟨-, -, rfl⟩
    · simp at h
    · simp at h
    · obtain ⟨he, hholds, heq⟩ := cFinish_held h
      obtain ⟨cap, hcap, hpos, hlt⟩ := exceeds_of_holds hholds
      exact ⟨hf, he, finishOutput s, cap, by simp [hm], hcap, hpos, hlt, heq⟩
    · exact absurd h (dFinish_not_held s)

end Sys2Proof.Machine

/-! PROOFS of the family of 20_memory.md, second part: how much one command can push (spec R216, R250). The cost
of the Huffman code comes first (R203 (b)), then the size of a payload, then the statement about holds. -/

namespace Sys2Proof.Machine

/-! ## Ranks and items -/

/-- Moving an entry to the front keeps the entries of the recency list (R177). -/
theorem moveToFront_perm {recency : List Byte} {b : Byte} (hb : b ∈ recency) :
    (moveToFront recency (recency.idxOf b) b).Perm recency := by
  rw [moveToFront, ← List.erase_eq_eraseIdx_of_idxOf rfl]
  exact (List.perm_cons_erase hb).symm

/-- A rank is an index into the recency list (R177). -/
theorem mtfFrom_lt {recency : List Byte} (hall : ∀ b, b ∈ recency) (bytes : List Byte) :
    ∀ r ∈ mtfFrom recency bytes, r < recency.length := by
  induction bytes generalizing recency with
  | nil => simp [mtfFrom]
  | cons b bytes ih =>
    have hperm := moveToFront_perm (hall b)
    intro r hr
    rcases List.mem_cons.mp hr with rfl | hr
    · exact List.idxOf_lt_length_of_mem (hall b)
    · exact hperm.length_eq ▸ ih (fun c => hperm.mem_iff.mpr (hall c)) r hr

/-- Ranks are bytes (R177). -/
theorem mtf_lt (bytes : List Byte) : ∀ r ∈ mtf bytes, r < 256 := by
  have hall : ∀ b : Byte, b ∈ initialRecency := fun b =>
    List.mem_map.mpr ⟨b.toNat, List.mem_range.mpr b.isLt, by simp⟩
  have hlen : initialRecency.length = 256 := by simp [initialRecency]
  exact hlen ▸ mtfFrom_lt hall bytes

/-- The items of a run stand for the zero-run symbol (R179, R200). -/
theorem itemSymbol_runItems {z : Nat} {x : Item} (hx : x ∈ runItems z) : itemSymbol x = zrun := by
  rcases List.mem_append.mp hx with hx | hx
  · rw [List.eq_of_mem_replicate hx, itemSymbol]
  · split at hx
    · simp at hx
    · rw [List.mem_singleton.mp hx, itemSymbol]

/-- The symbols of a block's items are below EOB (R200). -/
theorem itemSymbol_rleFrom_lt {ranks : List Nat} (hranks : ∀ r ∈ ranks, r < 256) (z : Nat) :
    ∀ x ∈ rleFrom z ranks, itemSymbol x < 256 := by
  have hrun {z : Nat} {x : Item} (hx : x ∈ runItems z) : itemSymbol x < 256 := by
    simp [itemSymbol_runItems hx, zrun]
  induction ranks generalizing z with
  | nil => exact fun x hx => hrun hx
  | cons r ranks ih =>
    obtain ⟨hr, hranks⟩ := List.forall_mem_cons.mp hranks
    intro x hx
    rw [rleFrom] at hx
    split at hx
    · exact ih hranks _ x hx
    · rcases List.mem_append.mp hx with hx | hx
      · exact hrun hx
      · rcases List.mem_cons.mp hx with rfl | hx
        · exact hr
        · exact ih hranks _ x hx

/-- A run of zeros takes no more items than zeros (R179). -/
theorem runItems_length_le (z : Nat) : (runItems z).length ≤ z := by
  rw [runItems, List.length_append, List.length_replicate]
  split
  · simp; omega
  · simp; omega

/-- The run-length stage never lengthens (R179). -/
theorem rleFrom_length_le (z : Nat) (ranks : List Nat) : (rleFrom z ranks).length ≤ z + ranks.length := by
  induction ranks generalizing z with
  | nil => exact runItems_length_le z
  | cons r ranks ih =>
    rw [rleFrom]
    split
    · have hrest := ih (z + 1)
      simp only [List.length_cons]
      omega
    · have hrun := runItems_length_le z
      have hrest := ih 0
      simp only [List.length_append, List.length_cons]
      omega

@[simp] theorem bwt_length (block : List Byte) : (bwt block).1.length = block.length := by
  simp [bwt, rotationOrder]

/-- A block has no more items than bytes (R216). -/
theorem transform_items_length_le (block : List Byte) : (transform block).2.length ≤ block.length := by
  calc (transform block).2.length ≤ 0 + (mtf (bwt block).1).length := rleFrom_length_le 0 _
    _ = block.length := by simp

/-- The symbols of a block's items are below EOB (R200). -/
theorem transform_itemSymbol_lt (block : List Byte) : ∀ x ∈ (transform block).2, itemSymbol x < 256 :=
  itemSymbol_rleFrom_lt (mtf_lt _) 0

/-! ## Frequencies -/

/-- The cost of a code under the frequencies `f`: the sum of `f[s] * len[s]` (R203 (b)). -/
def codeCost (f len : List Nat) : Nat := ∑ s ∈ Finset.range f.length, f.getD s 0 * len.getD s 0

/-- Summing over the symbols by their counts is summing over the items (R201). -/
theorem sum_countP_mul {items : List Item} (hitems : ∀ x ∈ items, itemSymbol x < 256) (g : Nat → Nat) :
    ∑ s ∈ Finset.range 256, (items.countP fun x => itemSymbol x == s) * g s =
      (items.map fun x => g (itemSymbol x)).sum := by
  induction items with
  | nil => simp
  | cons x items ih =>
    obtain ⟨hx, hitems⟩ := List.forall_mem_cons.mp hitems
    simp [List.countP_cons, add_mul, Finset.sum_add_distrib, ih hitems, ite_mul, hx, add_comm]

theorem freq_getD {items : List Item} {s : Nat} (hs : s < 256) :
    (freq items).getD s 0 = items.countP fun x => itemSymbol x == s := by
  rw [freq, List.getD_append _ _ _ _ (by simpa using hs)]
  simp [hs]

theorem freq_getD_eob (items : List Item) : (freq items).getD eob 0 = 1 := by
  simp [freq, eob]

/-- The cost of a code for a block's frequencies is that of its items and of EOB (R201, R215). -/
theorem codeCost_freq {items : List Item} (hitems : ∀ x ∈ items, itemSymbol x < 256) (len : List Nat) :
    codeCost (freq items) len = (items.map fun x => len.getD (itemSymbol x) 0).sum + len.getD eob 0 := by
  have hcounts : ∑ s ∈ Finset.range 256, (freq items).getD s 0 * len.getD s 0 =
      (items.map fun x => len.getD (itemSymbol x) 0).sum := by
    rw [← sum_countP_mul hitems fun s => len.getD s 0]
    exact Finset.sum_congr rfl fun s hs => by rw [freq_getD (Finset.mem_range.mp hs)]
  have heob : (freq items).getD 256 0 = 1 := freq_getD_eob items
  rw [codeCost, freq_length, Finset.sum_range_succ, hcounts, heob, one_mul, eob]

/-- The frequencies of a block count its items and EOB (R201). -/
theorem freq_sum {items : List Item} (hitems : ∀ x ∈ items, itemSymbol x < 256) :
    (freq items).sum = items.length + 1 := by
  have hcount := sum_countP_mul hitems fun _ => 1
  simp only [mul_one, List.map_const', List.sum_replicate, smul_eq_mul] at hcount
  rw [freq, List.sum_append, List.sum_singleton, ← hcount]
  rfl

/-! ## The cost of the Huffman code -/

/-- The weight of a list of symbols under the frequencies `f` (R202). -/
def symbolsWeight (f symbols : List Nat) : Nat := (symbols.map fun s => f.getD s 0).sum

/-- What the merges of the loop of `Lengths` weigh together (R202). -/
def mergeCost : Nat → List Node → Nat
  | k + 1, a :: b :: rest =>
      a.weight + b.weight +
        mergeCost k (rest.orderedInsert (fun x y => nodeLe x y = true) (mergeNodes a b))
  | _, _ => 0

theorem deepen_getD (symbols : List Nat) {len : List Nat} {s : Nat} (hs : s < len.length) :
    (deepen symbols len).getD s 0 = len.getD s 0 + if s ∈ symbols then 1 else 0 := by
  by_cases hmem : s ∈ symbols <;> simp [deepen, hs, hmem]

/-- Each symbol of a list counted once weighs at most what the list weighs. -/
theorem sum_mem_le_symbolsWeight (f symbols : List Nat) (n : Nat) :
    ∑ s ∈ Finset.range n, f.getD s 0 * (if s ∈ symbols then 1 else 0) ≤ symbolsWeight f symbols := by
  induction symbols with
  | nil => simp
  | cons a symbols ih =>
    have hsplit (s : Nat) : f.getD s 0 * (if s ∈ a :: symbols then 1 else 0) ≤
        (if s = a then f.getD a 0 else 0) + f.getD s 0 * (if s ∈ symbols then 1 else 0) := by
      by_cases hsa : s = a <;> by_cases hmem : s ∈ symbols <;> simp [hsa, hmem]
    have hone : ∑ s ∈ Finset.range n, (if s = a then f.getD a 0 else 0) ≤ f.getD a 0 := by
      rw [Finset.sum_ite_eq']
      split <;> simp
    have hsum := Finset.sum_le_sum fun s (_ : s ∈ Finset.range n) => hsplit s
    rw [Finset.sum_add_distrib] at hsum
    simp only [symbolsWeight, List.map_cons, List.sum_cons] at ih ⊢
    omega

/-- Deepening some symbols by one costs at most their weight (R202). -/
theorem codeCost_deepen_le {f len : List Nat} (hlen : len.length = f.length) (symbols : List Nat) :
    codeCost f (deepen symbols len) ≤ codeCost f len + symbolsWeight f symbols := by
  have hterm : codeCost f (deepen symbols len) = codeCost f len +
      ∑ s ∈ Finset.range f.length, f.getD s 0 * (if s ∈ symbols then 1 else 0) := by
    rw [codeCost, codeCost, ← Finset.sum_add_distrib]
    refine Finset.sum_congr rfl fun s hs => ?_
    rw [deepen_getD symbols (by simpa [hlen] using hs), mul_add]
  rw [hterm]
  exact Nat.add_le_add_left (sum_mem_le_symbolsWeight f symbols f.length) _

/-- The cost of the lengths that the loop gives is at most what its merges weigh (R203 (b)). -/
theorem codeCost_huffmanLoop_le {f : List Nat} (k : Nat) {nodes : List Node} {len : List Nat}
    (hlen : len.length = f.length) (hweight : ∀ x ∈ nodes, x.weight = symbolsWeight f x.symbols) :
    codeCost f (huffmanLoop k nodes len) ≤ codeCost f len + mergeCost k nodes := by
  induction k generalizing nodes len with
  | zero => cases nodes <;> simp [huffmanLoop, mergeCost]
  | succ k ih =>
    match nodes with
    | [] | [_] => simp [huffmanLoop, mergeCost]
    | a :: b :: rest =>
      obtain ⟨ha, hb, hrest⟩ : _ ∧ _ ∧ _ := by simpa using hweight
      have hmerged : symbolsWeight f (a.symbols ++ b.symbols) = a.weight + b.weight := by
        rw [ha, hb, symbolsWeight, List.map_append, List.sum_append, symbolsWeight, symbolsWeight]
      have hdeepen := codeCost_deepen_le hlen (a.symbols ++ b.symbols)
      have hloop := ih (len := deepen (a.symbols ++ b.symbols) len) (by simpa using hlen)
        (nodes := rest.orderedInsert (fun x y => nodeLe x y = true) (mergeNodes a b)) (fun x hx => by
          rcases (List.mem_orderedInsert _).mp hx with rfl | hx
          · exact hmerged.symm
          · exact hrest x hx)
      rw [huffmanLoop, mergeCost]
      omega

/-! Two nodes of least weight are merged. Of `k <= 2^p` nodes, give each a code of `p` bits, or of `p - 1` bits to
as many as that leaves room for (the credits): merging two nodes into one of `p - 1` bits keeps this room, so the
merges weigh at most `p` times the whole, less the credits. -/

theorem nodeLe_iff (a b : Node) :
    nodeLe a b = true ↔ a.weight < b.weight ∨ a.weight = b.weight ∧ a.key ≤ b.key := by
  simp [nodeLe]

theorem nodeLe_trans : IsTrans Node fun x y => nodeLe x y = true :=
  ⟨fun a b c hab hbc => by rw [nodeLe_iff] at *; omega⟩

theorem nodeLe_total : Std.Total fun x y : Node => nodeLe x y = true :=
  ⟨fun a b => by rw [nodeLe_iff, nodeLe_iff]; omega⟩

/-- Nodes in order stand in order of their weights (R202). -/
theorem pairwise_weight {nodes : List Node} (h : nodes.Pairwise fun x y => nodeLe x y = true) :
    (nodes.map Node.weight).Pairwise (· ≤ ·) := by
  refine List.pairwise_map.mpr (h.imp fun {a b} hab => ?_)
  rw [nodeLe_iff] at hab
  omega

/-- In an ascending list no selection sums to more than the last elements. -/
theorem sum_le_sum_drop_of_sublist {selection weights : List Nat} (h : selection.Sublist weights)
    (hsorted : weights.Pairwise (· ≤ ·)) :
    selection.sum ≤ (weights.drop (weights.length - selection.length)).sum := by
  induction h with
  | slnil => simp
  | @cons selection weights w h ih =>
    have hle := h.length_le
    rw [List.length_cons, Nat.succ_sub hle, List.drop_succ_cons]
    exact ih hsorted.of_cons
  | @cons_cons selection weights w h ih =>
    have hle := h.length_le
    have hrest := ih hsorted.of_cons
    obtain ⟨hw, -⟩ := List.pairwise_cons.mp hsorted
    rw [List.length_cons, List.length_cons, Nat.add_sub_add_right]
    rcases Nat.eq_or_lt_of_le hle with heq | hlt
    · simpa [heq] using hrest
    · obtain ⟨i, hi⟩ : ∃ i, weights.length - selection.length = i + 1 :=
        ⟨weights.length - selection.length - 1, by omega⟩
      have hil : i < weights.length := by omega
      rw [hi, List.drop_succ_cons, List.drop_eq_getElem_cons hil, List.sum_cons, List.sum_cons]
      rw [hi] at hrest
      have := hw _ (List.getElem_mem hil)
      omega

/-- Credits can be moved away from the two least weights where there is room. -/
theorem exists_credits_of_two_least {credits rest : List Nat} {a b : Nat}
    (hsorted : (a :: b :: rest).Pairwise (· ≤ ·)) (hcredits : credits.Subperm (a :: b :: rest))
    (hroom : credits.length ≤ rest.length) :
    ∃ moved : List Nat, moved.Sublist rest ∧ moved.length = credits.length ∧ credits.sum ≤ moved.sum := by
  obtain ⟨selection, hperm, hsub⟩ := hcredits
  have hlast := sum_le_sum_drop_of_sublist hsub hsorted
  have hdrop : (a :: b :: rest).length - selection.length = (rest.length - credits.length) + 2 := by
    simp only [List.length_cons, hperm.length_eq]
    omega
  refine ⟨rest.drop (rest.length - credits.length), List.drop_sublist _ _, ?_, ?_⟩
  · rw [List.length_drop]
    omega
  · rwa [hdrop, hperm.sum_eq] at hlast

/-- Credits are some of the weights. -/
theorem sum_le_sum_of_subperm {credits weights : List Nat} (h : credits.Subperm weights) :
    credits.sum ≤ weights.sum := by
  obtain ⟨selection, hperm, hsub⟩ := h
  exact hperm.sum_eq ▸ hsub.sum_le_sum (by simp)

/-- With room for a node and its credit there is a bit for each. -/
theorem credits_le_mul_sum {credits weights : List Nat} {p : Nat} (hcredits : credits.Subperm weights)
    (hroom : credits.length + weights.length ≤ 2 ^ p) : credits.sum ≤ p * weights.sum := by
  cases p with
  | zero =>
    have hle := hcredits.length_le
    have hnil : credits = [] := List.length_eq_zero_iff.mp (by omega)
    simp [hnil]
  | succ p => exact (sum_le_sum_of_subperm hcredits).trans (Nat.le_mul_of_pos_left _ p.succ_pos)

/-- The merges of at most `2^p` nodes weigh at most `p` times the whole, less the credits for which there is
room. -/
theorem mergeCost_add_credits_le (k : Nat) {nodes : List Node} {credits : List Nat} {p : Nat}
    (hsorted : nodes.Pairwise fun x y => nodeLe x y = true)
    (hcredits : credits.Subperm (nodes.map Node.weight)) (hroom : credits.length + nodes.length ≤ 2 ^ p) :
    mergeCost k nodes + credits.sum ≤ p * (nodes.map Node.weight).sum := by
  induction k generalizing nodes credits p with
  | zero => simpa [mergeCost] using credits_le_mul_sum hcredits (by simpa using hroom)
  | succ k ih =>
    match nodes with
    | [] | [_] => simpa [mergeCost] using credits_le_mul_sum hcredits (by simpa using hroom)
    | a :: b :: rest =>
      have := nodeLe_trans
      have := nodeLe_total
      have hperm : ((rest.orderedInsert (fun x y => nodeLe x y = true) (mergeNodes a b)).map
          Node.weight).Perm ((a.weight + b.weight) :: rest.map Node.weight) :=
        (List.perm_orderedInsert _ (mergeNodes a b) rest).map Node.weight
      have merge {q : Nat} {credits : List Nat}
          (hcredits : credits.Subperm ((a :: b :: rest).map Node.weight))
          (hroom : credits.length + (rest.length + 2) ≤ 2 ^ q) (hfew : credits.length ≤ rest.length) :
          mergeCost (k + 1) (a :: b :: rest) + credits.sum ≤
            q * ((a :: b :: rest).map Node.weight).sum := by
        obtain ⟨moved, hsub, hlen, hsum⟩ :=
          exists_credits_of_two_least (pairwise_weight hsorted) hcredits (by simpa using hfew)
        have hmerged := ih (p := q) (List.Pairwise.orderedInsert (mergeNodes a b) rest hsorted.of_cons.of_cons)
          (((List.subperm_cons _).mpr hsub.subperm).trans hperm.symm.subperm)
          (by rw [List.length_cons, List.orderedInsert_length]; omega)
        rw [hperm.sum_eq] at hmerged
        simp only [mergeCost, List.map_cons, List.sum_cons, ← Nat.add_assoc] at hmerged ⊢
        omega
      by_cases hfew : credits.length ≤ rest.length
      · exact merge hcredits hroom hfew
      · rw [List.length_cons, List.length_cons] at hroom
        obtain _ | q := p
        · omega
        rw [pow_succ] at hroom
        have hmerged := merge (q := q) List.nil_subperm (by rw [List.length_nil]; omega) (by simp)
        have hcredit := sum_le_sum_of_subperm hcredits
        rw [Nat.succ_mul]
        simp only [List.sum_nil] at hmerged
        omega

/-- A leaf weighs what its symbol does (R202). -/
theorem leaf_weight {f : List Nat} {x : Node} (hx : x ∈ leaves f) :
    x.weight = symbolsWeight f x.symbols := by
  obtain ⟨p, hp, rfl⟩ := List.mem_map.mp hx
  have hfp : f[p.2]? = some p.1 := List.mem_zipIdx_iff_getElem?.mp (List.mem_of_mem_filter hp)
  simp [symbolsWeight, hfp]

/-- The weights of the leaves are frequencies, those of the unused symbols left out (R202). -/
theorem leaves_weight_sublist (f : List Nat) : ((leaves f).map Node.weight).Sublist f := by
  have hweight : (leaves f).map Node.weight = (f.zipIdx.filter fun p => decide (0 < p.1)).map Prod.fst := by
    rw [leaves, List.map_map]
    rfl
  rw [hweight]
  exact (List.filter_sublist.map Prod.fst).trans (by simp)

theorem leaves_length_le (f : List Nat) : (leaves f).length ≤ f.length := by
  simpa using (leaves_weight_sublist f).length_le

theorem leaves_weight_le (f : List Nat) : ((leaves f).map Node.weight).sum ≤ f.sum :=
  (leaves_weight_sublist f).sum_le_sum (by simp)

theorem codeCost_zeros (f : List Nat) : codeCost f (f.map fun _ => 0) = 0 := by
  refine Finset.sum_eq_zero fun s hs => ?_
  simp

/-- The code that `Lengths` gives costs no more than one of `p` bits for each symbol, where `2^p` are enough
(R203 (b)). -/
theorem codeCost_lengths_le {f : List Nat} {p : Nat} (hp : f.length ≤ 2 ^ p) :
    codeCost f (lengths f) ≤ p * f.sum := by
  have := nodeLe_trans
  have := nodeLe_total
  have hperm := List.perm_insertionSort (fun x y => nodeLe x y = true) (leaves f)
  have hloop := codeCost_huffmanLoop_le ((leaves f).insertionSort fun x y => nodeLe x y = true).length
    (len := f.map fun _ => 0) (by simp) (fun x hx => leaf_weight (hperm.mem_iff.mp hx))
  have hmerge := mergeCost_add_credits_le
    ((leaves f).insertionSort fun x y => nodeLe x y = true).length (credits := []) (p := p)
    (List.pairwise_insertionSort _ (leaves f)) List.nil_subperm
    (by rw [hperm.length_eq, List.length_nil, Nat.zero_add]; exact (leaves_length_le f).trans hp)
  rw [(hperm.map Node.weight).sum_eq, List.sum_nil, Nat.add_zero] at hmerge
  rw [codeCost_zeros, Nat.zero_add] at hloop
  calc codeCost f (lengths f) ≤ _ := hloop
    _ ≤ p * ((leaves f).map Node.weight).sum := hmerge
    _ ≤ p * f.sum := Nat.mul_le_mul_left p (leaves_weight_le f)

/-! ## The size of a payload -/

/-- The rows that follow the first one are the other used symbols, with their lengths (R204). -/
theorem codesAfter_map (l c : Nat) (used : List (Nat × Nat)) :
    ((codesAfter l c used).map fun row => (row.len, row.symbol)) = used := by
  induction used generalizing l c with
  | nil => rfl
  | cons p used ih => rw [codesAfter, List.map_cons, ih]

/-- The code table holds the used symbols with their lengths (R204). -/
theorem codes_map (len : List Nat) :
    ((codes len).map fun row => (row.len, row.symbol)) = usedSymbols len := by
  rw [codes]
  cases usedSymbols len with
  | nil => rfl
  | cons p used => rw [List.map_cons, codesAfter_map]

theorem mem_usedSymbols {len : List Nat} {l s : Nat} :
    (l, s) ∈ usedSymbols len ↔ len[s]? = some l ∧ 0 < l := by
  simp [usedSymbols, List.mem_insertionSort, List.mem_zipIdx_iff_getElem?]

/-- The code of a symbol has the symbol's length, an unused one the empty code (R204). -/
theorem codeOf_len (len : List Nat) (s : Nat) : (codeOf (codes len) s).len = len.getD s 0 := by
  rw [codeOf]
  cases hfind : (codes len).find? fun row => row.symbol == s with
  | some row =>
    have hused : (row.len, row.symbol) ∈ usedSymbols len :=
      codes_map len ▸ List.mem_map_of_mem (List.mem_of_find?_eq_some hfind)
    obtain ⟨hlen, -⟩ := mem_usedSymbols.mp hused
    have hsymbol : row.symbol = s := by simpa using List.find?_some hfind
    simp [← hsymbol, hlen]
  | none =>
    cases hlen : len[s]? with
    | none => simp [hlen]
    | some l =>
      rcases Nat.eq_zero_or_pos l with rfl | hpos
      · simp [hlen]
      · have hused : (l, s) ∈ usedSymbols len := mem_usedSymbols.mpr ⟨hlen, hpos⟩
        rw [← codes_map] at hused
        obtain ⟨row, hrow, heq⟩ := List.mem_map.mp hused
        have hne := List.find?_eq_none.mp hfind row hrow
        simp [(Prod.mk.inj heq).2] at hne

@[simp] theorem symbolBits_length (len : List Nat) (s : Nat) :
    (symbolBits (codes len) s).length = len.getD s 0 := by
  rw [symbolBits, bitsOf_length, codeOf_len]

/-- An item takes its symbol's code, and a run eight bits more (R215). -/
theorem itemBits_length_le (len : List Nat) (x : Item) :
    (itemBits (codes len) x).length ≤ len.getD (itemSymbol x) 0 + 8 := by
  cases x <;> simp [itemBits, itemSymbol]

/-- The items of a block take their codes and at most eight bits more each (R216). -/
theorem itemsBits_length_le (len : List Nat) (items : List Item) :
    (items.flatMap (itemBits (codes len))).length ≤
      (items.map fun x => len.getD (itemSymbol x) 0).sum + 8 * items.length := by
  induction items with
  | nil => simp
  | cons x items ih =>
    have hx := itemBits_length_le len x
    simp only [List.flatMap_cons, List.length_append, List.map_cons, List.sum_cons, List.length_cons]
    omega

/-- The encoded bits of a block of `n` bytes: ORIGIN and the table, then a nine-bit code and an eight-bit field
for each byte at most, and EOB (R216). -/
theorem payloadBits_length_le (block : List Byte) :
    (payloadBits block).length ≤ 1310 + 17 * block.length := by
  have hitems := transform_itemSymbol_lt block
  have hcode := codeCost_lengths_le (f := freq (transform block).2) (p := 9) (by simp)
  rw [freq_sum hitems, codeCost_freq hitems] at hcode
  have hbits := itemsBits_length_le (lengths (freq (transform block).2)) (transform block).2
  have hcount := transform_items_length_le block
  have hlength : (payloadBits block).length = 1301 +
      ((transform block).2.flatMap (itemBits (codes (lengths (freq (transform block).2))))).length +
      (lengths (freq (transform block).2)).getD eob 0 := by
    simp [payloadBits, put]
    omega
  omega

/-- A packed sequence of whole bytes has an eighth as many bytes as bits (R150). -/
theorem pack_length {bits : Bits} (h : bits.length % 8 = 0) : 8 * (pack bits).length = bits.length := by
  rw [← unpack_length, unpack_pack bits h]

/-- A flushed sequence has fewer than eight bits of padding (R153). -/
theorem flush_length_le (wb : Bits) : 8 * (flush wb).1.length ≤ wb.length + 7 := by
  have hpad : (wb ++ List.replicate (padding wb.length) false).length = wb.length + padding wb.length := by
    simp
  rw [flush, pack_length (by rw [hpad, padding]; omega), hpad, padding]
  omega

/-- The payload of a block is within PAYMAX of its size (R6, R216). -/
theorem encodePayload_length_le (block : List Byte) :
    (encodePayload block).length ≤ payMax block.length := by
  have hbits := payloadBits_length_le block
  have hbytes := flush_length_le (payloadBits block)
  rw [encodePayload, payMax]
  omega

/-! ## The length of a decoded block -/

theorem exists_of_map_eq_ok {ε α β : Type} {f : α → β} {r : Except ε α} {y : β} (h : r.map f = .ok y) :
    ∃ x, r = .ok x ∧ f x = y := by
  cases r with
  | error e => cases h
  | ok x => exact ⟨x, rfl, Except.ok.inj h⟩

/-- A turn of the decoding loop that fails no check: EOB with no rank to come, or some of the ranks that are to
come and then the other turns (R220). -/
theorem decodeRanks_cases {table : List Code} {k room : Nat} {reader rest : Bits} {ranks : List Nat}
    (h : decodeRanks table (k + 1) room reader = .ok (ranks, rest)) :
    (room = 0 ∧ ranks = []) ∨
    (∃ head later reader', ranks = head ++ later ∧ head.length ≤ room ∧
      decodeRanks table k (room - head.length) reader' = .ok (later, rest)) := by
  rw [decodeRanks] at h
  split at h
  · cases h
  · next s reader hsymbol =>
    split at h
    · split at h
      · next hroom =>
        cases h
        exact .inl ⟨hroom, rfl⟩
      · cases h
    · refine .inr ?_
      split at h
      · split at h
        · cases h
        · next c reader hfield =>
          split at h
          · cases h
          · next hroom =>
            obtain ⟨later, hlater, heq⟩ := exists_of_map_eq_ok h
            cases heq
            exact ⟨List.replicate (c + 1) 0, later.1, reader, rfl, by simpa using hroom, by simpa using hlater⟩
      · split at h
        · cases h
        · next hroom =>
          obtain ⟨later, hlater, heq⟩ := exists_of_map_eq_ok h
          cases heq
          exact ⟨[s], later.1, reader, rfl, Nat.not_lt.mp hroom, by simpa using hlater⟩

/-- Decoding ends with every rank that was to come (R220). -/
theorem decodeRanks_length {table : List Code} {k room : Nat} {reader rest : Bits} {ranks : List Nat}
    (h : decodeRanks table k room reader = .ok (ranks, rest)) : ranks.length = room := by
  induction k generalizing room reader ranks with
  | zero => cases h
  | succ k ih =>
    rcases decodeRanks_cases h with ⟨rfl, rfl⟩ | ⟨head, later, reader', rfl, hle, hlater⟩
    · rfl
    · rw [List.length_append, ih hlater]
      omega

/-- A decoded block has the announced length (R220). -/
theorem decodePayload_length {pay block : List Byte} {n : Nat} (h : decodePayload pay n = .ok block) :
    block.length = n := by
  rw [decodePayload] at h
  split at h
  · cases h
  · split at h
    · cases h
    · split at h
      · cases h
      · split at h
        · cases h
        · next ranks reader hranks =>
          split at h
          · cases h
            rw [untransform_length, decodeRanks_length hranks]
          · cases h

/-! ## The bound on one command -/

/-- The header, where it is still to be sent, takes five bytes (R242, R311). -/
theorem pendingHeader_length_le (s : State) : s.pendingHeader.length ≤ 5 := by
  rw [State.pendingHeader]
  split <;> simp

/-- A record takes eleven bytes beside its payload (R216, R313). -/
theorem blockRecord_length_le (block : List Byte) :
    (blockRecord block).length ≤ payMax block.length + 11 := by
  rw [blockRecord, recordOf_length]
  exact Nat.add_le_add_right (encodePayload_length_le block) 11

/-- A FEED of a COMP session pushes at most a header and a record (R250). -/
theorem blockOutput_length_le {s : State} (hbuf : s.buf.length < s.bs) (b : Byte) :
    (blockOutput s b).length ≤ maxOut s.cls.toNat := by
  have hheader := pendingHeader_length_le s
  have hrecord := blockRecord_length_le (s.buf ++ [b])
  rw [List.length_append, List.length_singleton, payMax] at hrecord
  rw [blockOutput, List.length_append, maxOut, payMax, ← State.bs]
  omega

/-- A FINISH of a COMP session pushes at most a header, a record and the closing bytes (R250). -/
theorem finishOutput_length_le {s : State} (hbuf : s.buf.length < s.bs) :
    (finishOutput s).length ≤ maxOut s.cls.toNat := by
  have hheader := pendingHeader_length_le s
  have hrecord : (if s.buf = [] then [] else blockRecord s.buf).length ≤ payMax s.buf.length + 11 := by
    split
    · exact Nat.zero_le _
    · exact blockRecord_length_le s.buf
  have hmarker : endMarker.length = 2 := rfl
  rw [payMax] at hrecord
  rw [finishOutput, List.length_append, List.length_append, List.length_append, footer_length, hmarker,
    maxOut, payMax, ← State.bs]
  omega

/-- The block of a body within the announced bounds is no longer than a block of the class (R277, R280). -/
theorem checkBody_length_le {s : State} (h : Inv s) (hm : s.mode = .decomp)
    (hp : s.pstate = .expectBlockBody) {g block : List Byte} (hcheck : checkBody s g = .ok block) :
    block.length ≤ maxOut s.cls.toNat := by
  obtain ⟨-, hn, -, -⟩ := (lengthsOk_iff _ _ _).mp (h.decompBody hm hp)
  rw [checkBody] at hcheck
  split at hcheck
  · cases hcheck
  · rw [decodePayload_length hcheck, maxOut, payMax, ← State.bs]
    omega

/-- A supported class pushes no more at once than the smallest capacity that is allowed (R5, R250). -/
theorem Inv.maxOut_le {s : State} (h : Inv s) (hc : s.cls.toNat ≤ s.cfg.maxClass) {cap : Nat}
    (hcap : s.cfg.ocap = some cap) : maxOut s.cls.toNat ≤ cap := by
  have hpow : 2 ^ s.cls.toNat ≤ 2 ^ s.cfg.maxClass := Nat.pow_le_pow_right (by omega) hc
  have hmax := h.params.2 cap hcap
  simp only [maxOut, payMax, blockSize] at hmax ⊢
  omega

/-- Settles O40: what a held command would push is within MAXOUT of the class, so it fits an empty queue. -/
theorem nothingHeldOnEmptyQueue : Obligations.NothingHeldOnEmptyQueue := by
  intro i s t h hd ht hheld
  obtain ⟨-, he, out, cap, hout, hcap, -, hlt, -⟩ := heldCommandChangesNothing i s t ht hheld
  rw [hd, List.length_nil, Nat.zero_add] at hlt
  suffices s.cls.toNat ≤ s.cfg.maxClass ∧ out.length ≤ maxOut s.cls.toNat by
    obtain ⟨hclass, hlen⟩ := this
    have hroom := h.maxOut_le hclass hcap
    omega
  split at hout
  · next b hm =>
    obtain ⟨hclass, hbuf⟩ := h.compOpen hm he
    obtain ⟨-, rfl⟩ := hout
    exact ⟨hclass, blockOutput_length_le hbuf b⟩
  · next hm =>
    obtain ⟨hclass, hbuf⟩ := h.compOpen hm he
    exact hout ▸ ⟨hclass, finishOutput_length_le hbuf⟩
  · next b hm =>
    obtain ⟨hp, -, hcheck⟩ := hout
    exact ⟨h.decompClass hm, checkBody_length_le h hm hp hcheck⟩
  · exact hout.elim

end Sys2Proof.Machine

/-! PROOFS of the family of 30_encoding.md, first part: the fields of a word, decoding against encoding, and which
words are legal (spec R91, R92, R95, R98). A word is its three fields; decoding is said once, as an outcome for
every choice of them. -/

namespace Sys2Proof

/-! ## The fields of a word -/

@[simp] theorem opField_packFields (op fn : BitVec 4) (imm : Byte) : opField (packFields op fn imm) = op :=
  (BitVec.extractLsb'_append_eq_of_le (by decide)).trans BitVec.extractLsb'_append_eq_left

@[simp] theorem fnField_packFields (op fn : BitVec 4) (imm : Byte) : fnField (packFields op fn imm) = fn :=
  (BitVec.extractLsb'_append_eq_of_le (by decide)).trans BitVec.extractLsb'_append_eq_right

@[simp] theorem immField_packFields (op fn : BitVec 4) (imm : Byte) : immField (packFields op fn imm) = imm :=
  BitVec.extractLsb'_append_eq_right

/-- The fields make up the whole word (R91). -/
theorem packFields_fields (w : CommandWord) : packFields (opField w) (fnField w) (immField w) = w := by
  unfold packFields opField fnField immField
  rw [BitVec.extractLsb'_append_extractLsb'_eq_extractLsb' (by rfl)]
  exact (BitVec.extractLsb'_append_extractLsb'_eq_extractLsb' rfl).trans BitVec.extractLsb'_eq_self

theorem packFields_inj {op fn op' fn' : BitVec 4} {imm imm' : Byte} :
    packFields op fn imm = packFields op' fn' imm' ↔ op = op' ∧ fn = fn' ∧ imm = imm' := by
  refine ⟨fun h => ⟨?_, ?_, ?_⟩, fun ⟨hop, hfn, himm⟩ => by rw [hop, hfn, himm]⟩
  · simpa using congrArg opField h
  · simpa using congrArg fnField h
  · simpa using congrArg immField h

theorem packFields_and (op fn op' fn' : BitVec 4) (imm imm' : Byte) :
    packFields op fn imm &&& packFields op' fn' imm' =
      packFields (op &&& op') (fn &&& fn') (imm &&& imm') :=
  BitVec.and_append.trans (congrArg (· ++ (imm &&& imm')) BitVec.and_append)

/-- The mask of a row with operand keeps OP and FN (R92). -/
theorem and_operandMask (w : CommandWord) : w &&& 0xFF00 = packFields (opField w) (fnField w) 0 := by
  have hmask : (0xFF00 : CommandWord) = packFields (BitVec.allOnes 4) (BitVec.allOnes 4) 0 := rfl
  have himm : immField w &&& 0 = 0 := BitVec.and_zero
  calc w &&& 0xFF00
      _ = packFields (opField w) (fnField w) (immField w) &&&
            packFields (BitVec.allOnes 4) (BitVec.allOnes 4) 0 := by rw [packFields_fields, hmask]
      _ = packFields (opField w) (fnField w) 0 := by
            rw [packFields_and, BitVec.and_allOnes, BitVec.and_allOnes, himm]

/-- IMM is the low byte (R91). -/
theorem immField_eq_setWidth (w : CommandWord) : immField w = w.setWidth 8 :=
  BitVec.eq_of_toNat_eq (by simp [immField])

/-- A word lies in a row with operand by its OP and FN, and its low byte is then the operand (R92, R93). -/
theorem packFields_eq_iff (op fn : BitVec 4) (imm : Byte) (w : CommandWord) :
    packFields op fn imm = w ↔ w &&& 0xFF00 = packFields op fn 0 ∧ imm = w.setWidth 8 := by
  rw [and_operandMask, ← immField_eq_setWidth]
  constructor
  · rintro rfl
    simp
  · rintro ⟨hrow, rfl⟩
    obtain ⟨hop, hfn, -⟩ := packFields_inj.mp hrow
    rw [← hop, ← hfn, packFields_fields]

theorem opField_toNat (w : CommandWord) : (opField w).toNat = w.toNat / 4096 := by
  simp only [opField, BitVec.extractLsb'_toNat, Nat.shiftRight_eq_div_pow]
  omega

theorem fnField_toNat (w : CommandWord) : (fnField w).toNat = w.toNat / 256 % 16 := by
  simp [fnField, Nat.shiftRight_eq_div_pow]

theorem immField_toNat (w : CommandWord) : (immField w).toNat = w.toNat % 256 := by
  simp [immField]

/-! ## The decoder, row by row (R92) -/

theorem decode_row_nop (imm : Byte) : decode (packFields 0 0 imm) = withoutOperand imm .nop := by
  simp [decode]

theorem decode_row_cinit (imm : Byte) : decode (packFields 1 0 imm) = .ok (.cinit imm) := by
  simp [decode]

theorem decode_row_dinit (imm : Byte) : decode (packFields 2 0 imm) = withoutOperand imm .dinit := by
  simp [decode]

theorem decode_row_feed (imm : Byte) : decode (packFields 3 0 imm) = .ok (.feed imm) := by
  simp [decode]

theorem decode_row_feede (imm : Byte) : decode (packFields 3 1 imm) = withoutOperand imm .feede := by
  simp [decode]

theorem decode_row_finish (imm : Byte) : decode (packFields 4 0 imm) = withoutOperand imm .finish := by
  simp [decode]

theorem decode_row_pop (imm : Byte) : decode (packFields 5 0 imm) = withoutOperand imm .pop := by
  simp [decode]

theorem decode_row_rdsr (imm : Byte) :
    decode (packFields 6 0 imm) = if imm.toNat ≤ 8 then .ok (.rdsr imm) else .error .noSuchRegister := by
  simp [decode]

theorem decode_row_drop (imm : Byte) : decode (packFields 7 0 imm) = withoutOperand imm .drop := by
  simp [decode]

theorem decode_row_reset (imm : Byte) : decode (packFields 8 0 imm) = withoutOperand imm .reset := by
  simp [decode]

/-- The reserved OPs (R98). -/
theorem decode_reservedOpcode {op fn : BitVec 4} (imm : Byte) (hop : 9 ≤ op.toNat) :
    decode (packFields op fn imm) = .error .reservedOpcode := by
  have hop3 : ¬ (fn = 1 ∧ op = 3) := fun ⟨_, h⟩ => absurd (h ▸ hop) (by decide)
  simp only [decode, fnField_packFields, opField_packFields, if_neg hop3, if_neg (Nat.not_le.mpr hop)]
  split
  · split <;> simp_all
  · rfl

/-- A command's OP with an FN that is in no row (R98). -/
theorem decode_badFunction {op fn : BitVec 4} (imm : Byte) (hfn : fn ≠ 0) (hrow : ¬ (fn = 1 ∧ op = 3))
    (hop : op.toNat ≤ 8) : decode (packFields op fn imm) = .error .badFunction := by
  simp only [decode, fnField_packFields, opField_packFields, if_neg hfn, if_neg hrow, if_pos hop]

@[simp] theorem withoutOperand_zero (i : Instr) : withoutOperand 0 i = .ok i := if_pos rfl

theorem withoutOperand_ne_zero {imm : Byte} (h : imm ≠ 0) (i : Instr) :
    withoutOperand imm i = .error .nonzeroImmediate := if_neg h

/-! ## Decoding and encoding are inverse -/

/-- Settles O1: the word of each command lies in the command's own row, and the row reads the operand back. -/
theorem decodeOfEncode : Obligations.DecodeOfEncode := by
  intro i hwf
  cases i with
  | rdsr idx =>
    have hidx : idx.toNat ≤ 8 := by simpa [Instr.wf] using hwf
    rw [encode, decode_row_rdsr, if_pos hidx]
  | cinit cls => exact decode_row_cinit cls
  | feed b => exact decode_row_feed b
  | nop => exact decode_row_nop 0
  | dinit => exact decode_row_dinit 0
  | feede => exact decode_row_feede 0
  | finish => exact decode_row_finish 0
  | pop => exact decode_row_pop 0
  | drop => exact decode_row_drop 0
  | reset => exact decode_row_reset 0

/-! ## The outcome of decoding -/

/-- The illegal words of R98, by their fields. -/
def IllegalFields (op fn imm : Nat) : Prop :=
  9 ≤ op ∨ (fn ≠ 0 ∧ ¬ (fn = 1 ∧ op = 3 ∧ imm = 0)) ∨
    (fn = 0 ∧ op ∈ [0, 2, 4, 5, 7, 8] ∧ imm ≠ 0) ∨ (fn = 0 ∧ op = 6 ∧ 9 ≤ imm)

/-- Decoding of a word, said once: the well-formed command whose word it is, or an error on one of R98's words. -/
inductive DecodeOutcome (w : CommandWord) : Prop
  | legal (i : Instr) (decodes : decode w = .ok i) (wf : i.wf = true) (word : encode i = w)
  | illegal (e : Illegal) (fails : decode w = .error e)
      (fields : IllegalFields (opField w).toNat (fnField w).toNat (immField w).toNat)

/-- The outcome in a row without operand. -/
theorem decodeOutcome_withoutOperand {op fn : BitVec 4} {imm : Byte} {i : Instr}
    (hd : decode (packFields op fn imm) = withoutOperand imm i) (hwf : i.wf = true)
    (hword : encode i = packFields op fn 0) (hill : imm.toNat ≠ 0 → IllegalFields op.toNat fn.toNat imm.toNat) :
    DecodeOutcome (packFields op fn imm) := by
  by_cases himm : imm = 0
  · exact .legal i (by rw [hd, himm, withoutOperand_zero]) hwf (by rw [hword, himm])
  · have hne : imm.toNat ≠ 0 := fun h => himm (BitVec.eq_of_toNat_eq h)
    exact .illegal .nonzeroImmediate (by rw [hd, withoutOperand_ne_zero himm]) (by simpa using hill hne)

/-- The rows with FN = 0: the nine commands of R92 by OP, and the reserved OPs. -/
theorem decodeOutcome_fn_zero (op : BitVec 4) (imm : Byte) : DecodeOutcome (packFields op 0 imm) := by
  have hop : op = 0 ∨ op = 1 ∨ op = 2 ∨ op = 3 ∨ op = 4 ∨ op = 5 ∨ op = 6 ∨ op = 7 ∨ op = 8 ∨
      9 ≤ op.toNat := by
    revert op
    decide
  rcases hop with rfl | rfl | rfl | rfl | rfl | rfl | rfl | rfl | rfl | hop
  · exact decodeOutcome_withoutOperand (decode_row_nop imm) rfl rfl (by simp [IllegalFields])
  · exact .legal (.cinit imm) (decode_row_cinit imm) rfl rfl
  · exact decodeOutcome_withoutOperand (decode_row_dinit imm) rfl rfl (by simp [IllegalFields])
  · exact .legal (.feed imm) (decode_row_feed imm) rfl rfl
  · exact decodeOutcome_withoutOperand (decode_row_finish imm) rfl rfl (by simp [IllegalFields])
  · exact decodeOutcome_withoutOperand (decode_row_pop imm) rfl rfl (by simp [IllegalFields])
  · by_cases himm : imm.toNat ≤ 8
    · exact .legal (.rdsr imm) (by rw [decode_row_rdsr, if_pos himm]) (by simpa [Instr.wf] using himm) rfl
    · exact .illegal .noSuchRegister (by rw [decode_row_rdsr, if_neg himm]) (by simp [IllegalFields]; omega)
  · exact decodeOutcome_withoutOperand (decode_row_drop imm) rfl rfl (by simp [IllegalFields])
  · exact decodeOutcome_withoutOperand (decode_row_reset imm) rfl rfl (by simp [IllegalFields])
  · exact .illegal .reservedOpcode (decode_reservedOpcode imm hop) (.inl (by simpa using hop))

/-- Every word has one of the two outcomes (R95). -/
theorem decode_outcome (w : CommandWord) : DecodeOutcome w := by
  rw [← packFields_fields w]
  generalize opField w = op, fnField w = fn, immField w = imm
  by_cases hfn : fn = 0
  · exact hfn ▸ decodeOutcome_fn_zero op imm
  · by_cases hrow : fn = 1 ∧ op = 3
    · obtain ⟨rfl, rfl⟩ := hrow
      exact decodeOutcome_withoutOperand (decode_row_feede imm) rfl rfl (by simp [IllegalFields])
    · have hfn' : fn.toNat ≠ 0 := fun h => hfn (BitVec.eq_of_toNat_eq h)
      have hrow' : ¬ (fn.toNat = 1 ∧ op.toNat = 3 ∧ imm.toNat = 0) := fun ⟨h1, h3, _⟩ =>
        hrow ⟨BitVec.eq_of_toNat_eq h1, BitVec.eq_of_toNat_eq h3⟩
      have hill : IllegalFields op.toNat fn.toNat imm.toNat := .inr (.inl ⟨hfn', hrow'⟩)
      by_cases hop : op.toNat ≤ 8
      · exact .illegal .badFunction (decode_badFunction imm hfn hrow hop) (by simpa using hill)
      · exact .illegal .reservedOpcode (decode_reservedOpcode imm (by omega)) (by simpa using hill)

/-- Settles O2: of the two outcomes of decoding a word, it is the legal one. -/
theorem encodeOfDecode : Obligations.EncodeOfDecode := by
  intro w i hi
  cases decode_outcome w with
  | legal j decodes wf word =>
    obtain rfl : j = i := Except.ok.inj (decodes.symm.trans hi)
    exact ⟨wf, word⟩
  | illegal e fails => cases fails.symm.trans hi

/-- The decoder's whole graph: a word decodes to a command exactly when it is the word of it (R92, R95). -/
theorem decode_eq_ok_iff {w : CommandWord} {i : Instr} : decode w = .ok i ↔ i.wf = true ∧ encode i = w :=
  ⟨encodeOfDecode w i, fun ⟨hwf, hw⟩ => hw ▸ decodeOfEncode i hwf⟩

/-! ## The rows of the opcode map -/

/-- A command without operand has the one word of its row (R92). -/
theorem encode_eq_iff_of_operand_none {i : Instr} (h : Machine.operand i = none) (w : CommandWord) :
    encode i = w ↔ w &&& rowMask i = rowMatch i := by
  have hmask : w &&& 0xFFFF = w := BitVec.and_allOnes
  cases i with
  | cinit _ | feed _ | rdsr _ => cases h
  | nop | dinit | feede | finish | pop | drop | reset => exact hmask.symm ▸ eq_comm

/-- A command with an operand has the word of its row whose low byte is the operand (R92, R93). -/
theorem encode_eq_iff_of_operand_some {i : Instr} {imm : Byte} (h : Machine.operand i = some imm) (w : CommandWord) :
    encode i = w ↔ w &&& rowMask i = rowMatch i ∧ imm = w.setWidth 8 := by
  cases i with
  | cinit _ | feed _ | rdsr _ =>
    cases h
    exact packFields_eq_iff _ _ _ w
  | nop | dinit | feede | finish | pop | drop | reset => cases h

theorem decode_eq_ok_iff_of_operand_none {i : Instr} (hwf : i.wf = true) (h : Machine.operand i = none) (w : CommandWord) :
    decode w = .ok i ↔ w &&& rowMask i = rowMatch i := by
  rw [decode_eq_ok_iff, encode_eq_iff_of_operand_none h, and_iff_right hwf]

theorem decode_eq_ok_iff_of_operand_some {i : Instr} {imm : Byte} (h : Machine.operand i = some imm) (w : CommandWord) :
    decode w = .ok i ↔ i.wf = true ∧ w &&& rowMask i = rowMatch i ∧ imm = w.setWidth 8 := by
  rw [decode_eq_ok_iff, encode_eq_iff_of_operand_some h]

/-- An RDSR row word with an index above 8 is illegal (R36, R98). -/
theorem decode_noSuchRegister {w : CommandWord} (hrow : w &&& 0xFF00 = 0x6000) (himm : 8 < (w.setWidth 8).toNat) :
    decode w = .error .noSuchRegister := by
  have hw : encode (.rdsr (w.setWidth 8)) = w :=
    (encode_eq_iff_of_operand_some (i := .rdsr (w.setWidth 8)) rfl w).mpr ⟨hrow, rfl⟩
  rw [← hw, encode, decode_row_rdsr, if_neg (by omega)]

/-- Settles O3: each command's word is its row's, with the operand in the low byte; RDSR is the one command that
bounds its operand. -/
theorem opcodeMapSelectsCommand : Obligations.OpcodeMapSelectsCommand := by
  intro w
  refine ⟨?nop, fun cls => ?cinit, ?dinit, fun b => ?feed, ?feede, ?finish, ?pop, fun idx => ?rdsr, ?drop, ?reset,
    decode_noSuchRegister⟩
  case cinit => exact (decode_eq_ok_iff_of_operand_some rfl w).trans (and_iff_right rfl)
  case feed => exact (decode_eq_ok_iff_of_operand_some rfl w).trans (and_iff_right rfl)
  case rdsr =>
    rw [decode_eq_ok_iff_of_operand_some rfl w, Instr.wf, decide_eq_true_iff]
    exact ⟨fun ⟨hidx, hrow, himm⟩ => ⟨hrow, himm, hidx⟩, fun ⟨hrow, himm, hidx⟩ => ⟨hidx, hrow, himm⟩⟩
  all_goals exact decode_eq_ok_iff_of_operand_none rfl rfl w

/-! ## The illegal words -/

/-- The word of a well-formed command is none of those R98 lists. -/
theorem not_illegalFields_encode {i : Instr} (hwf : i.wf = true) :
    ¬ IllegalFields (opField (encode i)).toNat (fnField (encode i)).toNat (immField (encode i)).toNat := by
  cases i with
  | rdsr idx =>
    have hidx : idx.toNat ≤ 8 := of_decide_eq_true hwf
    simpa [encode, IllegalFields] using Nat.lt_succ_of_le hidx
  | nop | cinit _ | dinit | feed _ | feede | finish | pop | drop | reset => simp [encode, IllegalFields]

/-- The illegal words are those that R98 lists. -/
theorem decode_error_iff (w : CommandWord) :
    (∃ e, decode w = .error e) ↔ IllegalFields (opField w).toNat (fnField w).toNat (immField w).toNat := by
  constructor
  · rintro ⟨e, he⟩
    cases decode_outcome w with
    | legal i decodes => cases decodes.symm.trans he
    | illegal _ _ fields => exact fields
  · intro hill
    cases decode_outcome w with
    | legal i _ wf word => exact absurd hill (word ▸ not_illegalFields_encode wf)
    | illegal e fails => exact ⟨e, fails⟩

/-- Settles O7: the step on an illegal word only answers, and the fields of a word tell whether it is one. -/
theorem illegalWordOnlyAnswered : Obligations.IllegalWordOnlyAnswered := by
  refine ⟨fun s w rest e hcmds hd => ?_, fun w => ?_⟩
  · simp only [Machine.step, hcmds, hd]
    rfl
  · rw [decode_error_iff, opField_toNat, fnField_toNat, immField_toNat]
    rfl

/-! ## The number of legal words -/

/-- Every byte, once. -/
def allBytes : List Byte := (List.finRange 256).map BitVec.ofFin

@[simp] theorem mem_allBytes (b : Byte) : b ∈ allBytes :=
  List.mem_map.mpr ⟨b.toFin, List.mem_finRange _, rfl⟩

theorem allBytes_nodup : allBytes.Nodup :=
  (List.nodup_finRange 256).map fun _ _ => congrArg BitVec.toFin

@[simp] theorem allBytes_length : allBytes.length = 256 := by simp [allBytes]

/-- The bytes that select a status register (R36). -/
def registerIndices : List Byte := allBytes.filter fun idx => idx.toNat ≤ 8

theorem registerIndices_length : registerIndices.length = 9 := by decide

/-- The well-formed commands, each with every operand it admits (R92, R93). -/
def wellFormedCommands : List Instr :=
  [Instr.nop, .dinit, .feede, .finish, .pop, .drop, .reset] ++
    (allBytes.map Instr.cinit ++ (allBytes.map Instr.feed ++ registerIndices.map Instr.rdsr))

theorem mem_wellFormedCommands (i : Instr) : i ∈ wellFormedCommands ↔ i.wf = true := by
  cases i with
  | rdsr idx => simp [wellFormedCommands, registerIndices, Instr.wf]
  | nop | cinit _ | dinit | feed _ | feede | finish | pop | drop | reset => simp [wellFormedCommands, Instr.wf]

theorem wellFormedCommands_nodup : wellFormedCommands.Nodup := by
  have hcinit : (allBytes.map Instr.cinit).Nodup := allBytes_nodup.map fun _ _ => Instr.cinit.inj
  have hfeed : (allBytes.map Instr.feed).Nodup := allBytes_nodup.map fun _ _ => Instr.feed.inj
  have hrdsr : (registerIndices.map Instr.rdsr).Nodup := (allBytes_nodup.filter _).map fun _ _ => Instr.rdsr.inj
  have hothers : [Instr.nop, .dinit, .feede, .finish, .pop, .drop, .reset].Nodup := by decide
  refine hothers.append (hcinit.append (hfeed.append hrdsr ?_) ?_) ?_ <;> simp [List.Disjoint]

theorem wellFormedCommands_length : wellFormedCommands.length = 528 := by
  simp [wellFormedCommands, registerIndices_length]

/-- Encoding is injective on the well-formed commands, decoding being its left inverse. -/
theorem encode_inj {i j : Instr} (hi : i.wf = true) (hj : j.wf = true) (h : encode i = encode j) : i = j :=
  Except.ok.inj ((decodeOfEncode i hi).symm.trans (h ▸ decodeOfEncode j hj))

/-- The legal words are the words of the well-formed commands. -/
theorem decode_isSome_iff (w : CommandWord) :
    (decode w).toOption.isSome = true ↔ ∃ i ∈ wellFormedCommands, encode i = w := by
  simp only [mem_wellFormedCommands, ← decode_eq_ok_iff]
  cases decode w <;> simp [Except.toOption]

/-- Settles O4: the legal words, in ascending order, are the words of the well-formed commands in another order,
and no two of these commands share a word. -/
theorem legalWordsAre528 : Obligations.LegalWordsAre528 := by
  have hnodup : (wellFormedCommands.map fun i => (encode i).toNat).Nodup :=
    wellFormedCommands_nodup.map_on fun i hi j hj h =>
      encode_inj ((mem_wellFormedCommands i).mp hi) ((mem_wellFormedCommands j).mp hj) (BitVec.eq_of_toNat_eq h)
  have hperm : ((List.range 65536).filter fun w => (decode (BitVec.ofNat 16 w)).toOption.isSome).Perm
      (wellFormedCommands.map fun i => (encode i).toNat) := by
    refine (List.perm_ext_iff_of_nodup (List.nodup_range.filter _) hnodup).mpr fun n => ?_
    simp only [List.mem_filter, List.mem_range, decode_isSome_iff, List.mem_map]
    constructor
    · rintro ⟨hn, i, hi, hw⟩
      exact ⟨i, hi, by simpa [hw] using hn⟩
    · rintro ⟨i, hi, rfl⟩
      exact ⟨(encode i).isLt, i, hi, by simp⟩
  rw [Obligations.LegalWordsAre528, hperm.length_eq, List.length_map, wellFormedCommands_length]

/-- Settles O5: the words of V1 in the order of its table. -/
theorem sampleWordsDecode : Obligations.SampleWordsDecode :=
  ⟨decode_row_cinit 11, decode_row_feed 0x61, decode_row_feede 0, decode_row_rdsr 8, decode_row_reset 0,
    decode_row_rdsr 9, decode_reservedOpcode (op := 9) (fn := 0) 0 (by decide)⟩

end Sys2Proof

/-! PROOFS of the family of 30_encoding.md, second part: what a response counts (spec R69, R94), and the host's DRAIN
(spec R100). -/

namespace Sys2Proof.Machine

/-! ## RDATA of FEED and FINISH -/

/-- From `s` to `t` a FEED or FINISH has pushed `out`, and its response counts it: with OK RDATA is the number of
bytes, with another status there are none (R69, R94). -/
structure CountsPushed (s t : State) (out : List Byte) : Prop where
  dout : t.dout = s.dout ++ out
  totalout : t.totalout = s.totalout + BitVec.ofNat 64 out.length
  ok : lastStatus t = some .ok → t.rsp = some ⟨.ok, BitVec.ofNat 32 out.length⟩
  other : lastStatus t ≠ some .ok → out = []

/-- A session error is never answered OK (R340). -/
theorem SessionError.status_ne_ok (e : SessionError) : e.status ≠ .ok := by
  cases e <;> decide

section Responses

variable {s u : State} (hd : u.dout = s.dout := by rfl) (ht : u.totalout = s.totalout := by rfl)
include hd ht

theorem countsPushed_deliver {out : List Byte} : CountsPushed s (u.deliver out) out where
  dout := by simp [hd]
  totalout := by simp [ht]
  ok _ := rfl
  other h := absurd rfl h

theorem countsPushed_ok : CountsPushed s (u.respond .ok 0) [] where
  dout := by simp [hd]
  totalout := by simp [ht]
  ok _ := rfl
  other _ := rfl

theorem countsPushed_not_ok {st : Status} {d : BitVec 32} (hst : st ≠ .ok := by decide) :
    CountsPushed s (u.respond st d) [] where
  dout := by simp [hd]
  totalout := by simp [ht]
  ok h := absurd (Option.some.inj h) hst
  other _ := rfl

theorem countsPushed_raise {e : SessionError} {det : Detail} : CountsPushed s (u.raise e det) [] :=
  countsPushed_not_ok (u := u.markError e det) hd ht e.status_ne_ok

end Responses

/-- A FEED of a COMP session: the byte buffered, held, or a block cut (R243). -/
theorem countsPushed_cFeed (b : Byte) (s : State) : ∃ out, CountsPushed s (cFeed b s) out := by
  rcases cFeed_cases b s with ⟨-, h⟩ | ⟨-, -, h⟩ | ⟨-, -, h⟩ <;> rw [h]
  · exact ⟨[], countsPushed_ok⟩
  · exact ⟨[], countsPushed_not_ok⟩
  · exact ⟨blockOutput s b, countsPushed_deliver⟩

/-- A FINISH of a COMP session: the session's error, held, or the end of the stream (R246). -/
theorem countsPushed_cFinish (s : State) : ∃ out, CountsPushed s (cFinish s) out := by
  rcases cFinish_cases s with ⟨-, h⟩ | ⟨-, -, h⟩ | ⟨-, -, h⟩ <;> rw [h]
  · exact ⟨[], countsPushed_raise⟩
  · exact ⟨[], countsPushed_not_ok⟩
  · exact ⟨finishOutput s, countsPushed_deliver⟩

/-- A FEED of a DECOMP session: an error, held, a block released, or the parser moved on (R272 to R288). -/
theorem countsPushed_dFeed (b : Byte) (s : State) : ∃ out, CountsPushed s (dFeed b s) out := by
  rcases dFeed_outcomes b s with ⟨g, e, det, h⟩ | ⟨n, h⟩ | ⟨block, h⟩ | ⟨cls, g, p, n, l, h⟩ <;> rw [h]
  · exact ⟨[], countsPushed_raise⟩
  · exact ⟨[], countsPushed_not_ok⟩
  · exact ⟨block, countsPushed_deliver⟩
  · exact ⟨[], countsPushed_ok⟩

/-- A FINISH of a DECOMP session (R290). -/
theorem countsPushed_dFinish (s : State) : CountsPushed s (dFinish s) [] := by
  rcases dFinish_cases s with ⟨-, h⟩ | ⟨-, h⟩ <;> rw [h]
  · exact countsPushed_ok
  · exact countsPushed_raise

/-- Settles O37: the refusals push nothing, and each of the four bodies counts what it pushes. -/
theorem responseCountsPushedBytes : Obligations.ResponseCountsPushedBytes := by
  intro i s t hi h
  suffices ∃ out, CountsPushed s t out by
    obtain ⟨out, hout⟩ := this
    exact ⟨out, hout.dout, hout.totalout, hout.ok, hout.other⟩
  rcases hi with ⟨b, rfl⟩ | rfl
  · rcases exec_feed_cases h with ⟨-, rfl⟩ | ⟨-, -, rfl⟩ | ⟨-, -, -, rfl⟩ | ⟨-, -, -, rfl⟩
    · exact ⟨[], countsPushed_not_ok⟩
    · exact ⟨[], countsPushed_raise⟩
    · exact countsPushed_cFeed b s
    · exact countsPushed_dFeed b s
  · rcases exec_finish_cases h with ⟨-, rfl⟩ | ⟨-, -, rfl⟩ | ⟨-, -, rfl⟩ | ⟨-, -, rfl⟩
    · exact ⟨[], countsPushed_not_ok⟩
    · exact ⟨[], countsPushed_raise⟩
    · exact countsPushed_cFinish s
    · exact ⟨[], countsPushed_dFinish s⟩

/-! ## DRAIN -/

/-- POP on an empty queue (R128). -/
theorem after_pop_nil {s : State} (h : s.dout = []) : after .pop s = s.respond .outputEmpty 0 :=
  after_of_exec (by simp [exec, execPop, h])

/-- POP takes the front byte (R128). -/
theorem after_pop_cons {s : State} {b : Byte} {rest : List Byte} (h : s.dout = b :: rest) :
    after .pop s = { s with dout := rest }.respond .ok (b.setWidth 32) :=
  after_of_exec (by simp [exec, execPop, h])

/-- The last turn of DRAIN (R100). -/
theorem drainFor_nil {s : State} (h : s.dout = []) (k : Nat) :
    drainFor (k + 1) s = ([], s.respond .outputEmpty 0) := by
  simp [drainFor, after_pop_nil h]

/-- A turn of DRAIN that gets a byte, which comes back from the 32 bits of RDATA (R94, R100). -/
theorem drainFor_cons {s : State} {b : Byte} {rest : List Byte} (h : s.dout = b :: rest) (k : Nat) :
    drainFor (k + 1) s =
      let next := drainFor k ({ s with dout := rest }.respond .ok (b.setWidth 32))
      (b :: next.1, next.2) := by
  simp [drainFor, after_pop_cons h, BitVec.setWidth_setWidth_of_le]

/-- One turn more than the queue has bytes returns the queue in order and leaves it empty. -/
theorem drainFor_length {bytes : List Byte} {s : State} (h : s.dout = bytes) :
    drainFor (bytes.length + 1) s = (bytes, { s with dout := [], rsp := some ⟨.outputEmpty, 0⟩ }) := by
  induction bytes generalizing s with
  | nil =>
    rw [List.length_nil, drainFor_nil h, ← h]
    rfl
  | cons b rest ih =>
    rw [List.length_cons, drainFor_cons h, ih rfl]
    rfl

/-- Settles O43: DRAIN makes one turn more than the queue has bytes. -/
theorem drainReturnsWholeQueue : Obligations.DrainReturnsWholeQueue := fun _ => drainFor_length rfl

end Sys2Proof.Machine

/-! PROOFS of the family of 40_commands.md, first part: one command per step (spec R120), the commands that start and
end a session, POP, and the refusals of the entry checks (spec R121 to R132, R343). -/

namespace Sys2Proof.Machine

/-! ## A step runs the command at the port -/

/-- A word presented whole stands at the port unchanged (R65). -/
theorem tableWord_toNat (w : CommandWord) : tableWord 16 w.toNat = w := by
  rw [tableWord, Nat.mod_eq_of_lt w.isLt, BitVec.ofNat_toNat, BitVec.setWidth_eq]

/-- With a legal word at the port the step takes it and runs its command (R120). -/
theorem step_of_decode {s : State} {w : CommandWord} {rest : List CommandWord} {i : Instr}
    (hcmds : s.cmds = w :: rest) (hd : decode w = .ok i) : step s = exec i { s with cmds := rest } := by
  simp only [step, hcmds, hd]

/-- Settles O6: a word just presented is the oldest one, and taking it gives the state back. -/
theorem stepRunsDecodedCommand : Obligations.StepRunsDecodedCommand := by
  refine ⟨fun s w rest i => step_of_decode, fun s w i hd => ?_⟩
  have hcmds : (s.withFetchWord 16 w.toNat).cmds = w :: s.cmds := congrArg (· :: s.cmds) (tableWord_toNat w)
  exact step_of_decode hcmds hd

/-- Every command has a next state in every state (R392), so the inversion of a command says what it does. -/
theorem exec_eq_next_after (i : Instr) (s : State) : exec i s = .next (after i s) := by
  suffices ∃ t, exec i s = .next t by
    obtain ⟨t, ht⟩ := this
    rw [ht, after_of_exec ht]
  cases i with
  | nop | dinit | feed _ | feede | drop | reset => exact ⟨_, rfl⟩
  | cinit cls => simp only [exec, execCinit, ← apply_ite, Host.Outcome.next.injEq, exists_eq']
  | finish => simp only [exec, execFinish, ← apply_ite, Host.Outcome.next.injEq, exists_eq']
  | pop =>
    simp only [exec, execPop]
    split <;> exact ⟨_, rfl⟩
  | rdsr idx =>
    simp only [exec, execRdsr]
    split <;> exact ⟨_, rfl⟩

/-! ## Error entry -/

/-- Error entry on a session that has an error keeps what the first one recorded (R343). -/
theorem raise_of_err {s : State} (he : s.err = true) (e : SessionError) (det : Detail) :
    s.raise e det =
      { s with
        pstate := if s.mode = .decomp then .error else s.pstate
        rsp := some ⟨e.status, 0⟩ } := by
  rw [State.raise, markError_of_err s e det he]
  rfl

/-- Error entry on a session without error records the error (R343). -/
theorem raise_of_not_err {s : State} (he : s.err = false) (e : SessionError) (det : Detail) :
    s.raise e det =
      { s with
        err := true, errcode := e.status.code, errdet := det.code
        pstate := if s.mode = .decomp then .error else s.pstate
        rsp := some ⟨e.status, 0⟩ } := by
  simp [State.raise, State.markError, State.respond, he]

/-! ## The commands that start and end a session -/

/-- ClearSession gives the reset state, with DOUT and the two ports kept (R39, R121). -/
theorem clearSession_eq (s : State) :
    s.clearSession = { State.resetOf s.cfg with dout := s.dout, cmds := s.cmds, rsp := s.rsp } := rfl

/-- Settles O9: the inversion of NOP is its whole effect. -/
theorem nopOnlyAnswers : Obligations.NopOnlyAnswers := fun s => by
  rw [exec_eq_next_after, exec_nop_eq (exec_eq_next_after .nop s)]
  rfl

/-- Settles O10: the cleared registers hold no error, so that of an unsupported class is the first and is recorded. -/
theorem cinitOpensOrFails : Obligations.CinitOpensOrFails := by
  intro s cls
  rw [exec_eq_next_after]
  rcases exec_cinit_cases (exec_eq_next_after (.cinit cls) s) with ⟨hle, ht⟩ | ⟨hlt, ht⟩
  · rw [ht, clearSession_eq]
    exact ⟨fun _ => rfl, fun hlt => absurd hle (Nat.not_le_of_lt hlt)⟩
  · rw [ht, raise_of_not_err (by rfl), clearSession_eq]
    exact ⟨fun hle => absurd hle (Nat.not_le_of_lt hlt), fun _ => rfl⟩

/-- Settles O11: ClearSession gives the reset values, and DINIT then writes MODE. -/
theorem dinitOpensDecompressor : Obligations.DinitOpensDecompressor := fun s => by
  rw [exec_eq_next_after, exec_dinit_eq (exec_eq_next_after .dinit s), clearSession_eq]
  rfl

/-- Settles O12: ClearSession is the whole effect. -/
theorem dropClearsSession : Obligations.DropClearsSession := fun s => by
  rw [exec_eq_next_after, exec_drop_eq (exec_eq_next_after .drop s), clearSession_eq]
  rfl

/-- Settles O13: with DOUT emptied too, ClearSession leaves only the ports of the reset state different. -/
theorem resetCommandResets : Obligations.ResetCommandResets := fun s => by
  rw [exec_eq_next_after, exec_reset_eq (exec_eq_next_after .reset s), clearSession_eq]
  exact ⟨rfl, rfl⟩

/-! ## POP -/

/-- Settles O15: RDATA is the byte widened with zeros. -/
theorem popTakesFrontByte : Obligations.PopTakesFrontByte := by
  intro s
  rw [exec_eq_next_after]
  refine ⟨fun b rest h => ?_, fun h => ?_⟩
  · rw [after_pop_cons h, BitVec.ofNat_toNat]
    rfl
  · rw [after_pop_nil h]
    rfl

/-! ## The entry checks -/

/-- TerminalCheck on a session in error keeps the first error (R122, R343). -/
theorem afterTerminalCheck_inError {s : State} (hm : s.mode ≠ .none) (he : s.err = true) (body : State → State) :
    s.afterTerminalCheck body =
      { s with
        pstate := if s.mode = .decomp then .error else s.pstate
        rsp := some ⟨.invalidState, 0⟩ } :=
  (afterTerminalCheck_terminal s body hm (.inr he)).trans (raise_of_err he _ _)

/-- TerminalCheck on a session that was finished without error records InvalidState (R122, R343). -/
theorem afterTerminalCheck_finished {s : State} (hm : s.mode ≠ .none) (he : s.err = false) (hf : s.fin = true)
    (body : State → State) :
    s.afterTerminalCheck body =
      { s with
        err := true, errcode := 1, errdet := 0
        pstate := if s.mode = .decomp then .error else s.pstate
        rsp := some ⟨.invalidState, 0⟩ } :=
  (afterTerminalCheck_terminal s body hm (.inl hf)).trans (raise_of_not_err he _ _)

/-- Settles O17: TerminalCheck answers before the body runs. -/
theorem feedRefusedUnlessOpen : Obligations.FeedRefusedUnlessOpen := fun s b =>
  ⟨fun hm => congrArg _ (afterTerminalCheck_noSession s (feedBody b) hm),
    fun hm he => congrArg _ (afterTerminalCheck_inError hm he (feedBody b)),
    fun hm he hf => congrArg _ (afterTerminalCheck_finished hm he hf (feedBody b))⟩

/-- Settles O18: the refusals are those of TerminalCheck, and the body only responds. -/
theorem feedeChecksAndAnswers : Obligations.FeedeChecksAndAnswers := fun s =>
  ⟨fun hm => congrArg _ (afterTerminalCheck_noSession s _ hm),
    fun hm he => congrArg _ (afterTerminalCheck_inError hm he _),
    fun hm he hf => congrArg _ (afterTerminalCheck_finished hm he hf _),
    fun hm he hf => congrArg _ (afterTerminalCheck_open s _ hm hf he)⟩

/-- FINISH with no session (R130). -/
theorem exec_finish_noSession {s : State} (hm : s.mode = .none) :
    exec .finish s = .next (s.respond .invalidState 0) :=
  if_pos hm

/-- FINISH of a session that was finished already (R130). -/
theorem exec_finish_again {s : State} (hm : s.mode ≠ .none) (hf : s.fin = true) :
    exec .finish s = .next (s.raise .invalidState .noDetail) :=
  (if_neg hm).trans (if_pos hf)

/-- Settles O19: a second FINISH is error entry, with or without an earlier error. -/
theorem finishRefusedWithoutSessionOrTwice : Obligations.FinishRefusedWithoutSessionOrTwice := fun _ =>
  ⟨exec_finish_noSession,
    fun hm hf he => (exec_finish_again hm hf).trans (congrArg _ (raise_of_err he _ _)),
    fun hm hf he => (exec_finish_again hm hf).trans (congrArg _ (raise_of_not_err he _ _))⟩

end Sys2Proof.Machine

/-! PROOFS of the family of 40_commands.md, second part: RDSR and the numeric values of the status registers (spec R36,
R129). -/

namespace Sys2Proof.Machine

/-! ## The values of the registers -/

/-- Putting a field above the `m` bits of another one adds its value with weight `2 ^ m`. -/
theorem append_toNat {n m : Nat} (high : BitVec n) (low : BitVec m) :
    (high ++ low).toNat = high.toNat * 2 ^ m + low.toNat := by
  rw [BitVec.toNat_append, ← Nat.shiftLeft_add_eq_or_of_lt low.isLt, Nat.shiftLeft_eq]

/-- STATUS as a number (R36). -/
theorem statusWord_toNat (s : State) :
    (statusWord s).toNat = s.mode.code.toNat + 4 * s.fin.toNat + 8 * s.err.toNat + 16 * s.pstate.code.toNat
      + 128 * s.hdrsent.toNat + 256 * s.short.toNat + 65536 * s.cls.toNat := by
  simp only [statusWord, append_toNat, BitVec.toNat_ofBool, BitVec.ofNat_eq_ofNat, BitVec.toNat_ofNat]
  omega

/-- ERRINFO as a number (R36). -/
theorem errinfoWord_toNat (s : State) : (errinfoWord s).toNat = s.errcode.toNat + 256 * s.errdet.toNat := by
  simp only [errinfoWord, append_toNat, BitVec.ofNat_eq_ofNat, BitVec.toNat_ofNat]
  omega

/-- BUFCNT as a number (R36). -/
theorem bufferCount_toNat (s : State) :
    (bufferCount s).toNat =
      (match s.mode with
        | .none => 0
        | .comp => s.buf.length
        | .decomp => s.gbuf.length) % 2 ^ 32 := by
  unfold bufferCount
  cases s.mode <;> simp

/-- The low register of a counter (R36). -/
theorem lowWord_toNat (c : BitVec 64) : (c.extractLsb' 0 32).toNat = c.toNat % 2 ^ 32 := by
  simp

/-- The high register of a counter (R36). -/
theorem highWord_toNat (c : BitVec 64) : (c.extractLsb' 32 32).toNat = c.toNat / 2 ^ 32 := by
  rw [BitVec.extractLsb'_toNat, Nat.shiftRight_eq_div_pow]
  omega

/-! ## RDSR -/

/-- The indices 0 to 8 select a register (R36). -/
theorem exists_statusRegister (s : State) {idx : Byte} (h : idx.toNat ≤ 8) : ∃ v, statusRegister s idx = some v := by
  unfold statusRegister
  interval_cases idx.toNat <;> exact ⟨_, rfl⟩

/-- The other indices select none (R36). -/
theorem statusRegister_eq_none (s : State) {idx : Byte} (h : 8 < idx.toNat) : statusRegister s idx = none := by
  unfold statusRegister
  split
  case h_10 => rfl
  all_goals omega

/-- RDSR responds with the register of its index (R129). -/
theorem exec_rdsr_register {s : State} {idx : Byte} {v : BitVec 32} (h : statusRegister s idx = some v) :
    exec (.rdsr idx) s = .next (s.respond .ok v) := by
  simp only [exec, execRdsr, h]

/-- RDSR of an index without register (R36, R98). -/
theorem exec_rdsr_noRegister {s : State} {idx : Byte} (h : statusRegister s idx = none) :
    exec (.rdsr idx) s = .next (s.respond .illegalCommand 0) := by
  simp only [exec, execRdsr, h, illegalCommand]

/-- Settles O16: each index selects one register, whose value as a number is that of its fields. -/
theorem rdsrReadsRegister : Obligations.RdsrReadsRegister := by
  refine fun s idx => ⟨fun hidx => ?_, fun hidx => exec_rdsr_noRegister (statusRegister_eq_none s hidx)⟩
  obtain ⟨v, hv⟩ := exists_statusRegister s hidx
  have selected {i : Byte} {u : BitVec 32} (hu : statusRegister s i = some u) (hi : idx = i) : v = u := by
    subst hi
    exact Option.some.inj (hv.symm.trans hu)
  refine ⟨v, exec_rdsr_register hv, fun h => ?_, fun h => ?_, fun h => ?_, fun h => ?_, fun h => ?_, fun h => ?_,
    fun h => ?_, fun h => ?_, selected rfl⟩
  · rw [selected rfl h, statusWord_toNat]
  · rw [selected rfl h, errinfoWord_toNat]
  · rw [selected rfl h]
    exact bufferCount_toNat s
  · rw [selected rfl h, BitVec.toNat_ofNat]
  · rw [selected rfl h, lowWord_toNat]
  · rw [selected rfl h, highWord_toNat]
  · rw [selected rfl h, lowWord_toNat]
  · rw [selected rfl h, highWord_toNat]

end Sys2Proof.Machine

/-! PROOFS of the family of 41_bitio.md: a bit reader gives back what a bit writer put (spec R150 to R157). -/

namespace Sys2Proof.Machine

/-! ## Several fields in order -/

/-- The writer appends the bits of each field in turn (R151). -/
theorem putEach_eq_append (fields : List (Nat × Nat)) (wb : Bits) :
    putEach fields wb = wb ++ fields.flatMap fun p => bitsOf p.1 p.2 := by
  induction fields generalizing wb with
  | nil => simp [putEach]
  | cons p fields ih =>
    calc putEach (p :: fields) wb = putEach fields (put wb p.1 p.2) := rfl
      _ = wb ++ (p :: fields).flatMap fun p => bitsOf p.1 p.2 := by simp [ih, put]

/-- The reader takes the fields back in turn, and leaves what follows them (R155). -/
theorem getEach_flatMap_bitsOf {fields : List (Nat × Nat)} (hfit : ∀ p ∈ fields, p.1 < 2 ^ p.2) (rest : Bits) :
    getEach (fields.map Prod.snd) ((fields.flatMap fun p => bitsOf p.1 p.2) ++ rest) =
      some (fields.map Prod.fst, rest) := by
  induction fields with
  | nil => rfl
  | cons p fields ih =>
    obtain ⟨hp, hfields⟩ := List.forall_mem_cons.mp hfit
    have hfirst := get_bitsOf p.1 p.2 ((fields.flatMap fun p => bitsOf p.1 p.2) ++ rest) hp
    simp [getEach, hfirst, ih hfields]

/-! ## The padding of a flushed stream -/

theorem padding_le (n : Nat) : padding n ≤ 7 := by
  rw [padding]
  omega

/-- The bytes of a flushed stream hold its bits and then the padding (R153). -/
theorem unpack_flush (wb : Bits) : unpack (flush wb).1 = wb ++ List.replicate (padding wb.length) false := by
  refine unpack_pack _ ?_
  rw [List.length_append, List.length_replicate, padding]
  omega

theorem eight_mul_flush_length (wb : Bits) : 8 * (flush wb).1.length = wb.length + padding wb.length := by
  rw [← unpack_length, unpack_flush, List.length_append, List.length_replicate]

theorem bitsOf_zero (w : Nat) : bitsOf 0 w = List.replicate w false := by
  induction w with
  | zero => rfl
  | succ w ih => rw [bitsOf, ih, Nat.zero_testBit, List.replicate_succ]

/-- Zero padding reads as the value 0 (R155). -/
theorem get_replicate_false (w : Nat) : get w (List.replicate w false) = some (0, []) := by
  have h := get_bitsOf 0 w [] (Nat.two_pow_pos w)
  rwa [List.append_nil, bitsOf_zero] at h

theorem remaining_replicate (w : Nat) : remaining (List.replicate w false) = w := List.length_replicate

/-! ## Reading what was written -/

/-- A flushed stream of fields reads back, and its padding is left. -/
theorem getEach_flush {fields : List (Nat × Nat)} (hfit : ∀ p ∈ fields, p.1 < 2 ^ p.2) :
    getEach (fields.map Prod.snd) (unpack (flush (putEach fields [])).1) =
      some (fields.map Prod.fst, List.replicate (padding (putEach fields []).length) false) := by
  have hput := putEach_eq_append fields []
  rw [List.nil_append] at hput
  rw [unpack_flush, hput, getEach_flatMap_bitsOf hfit]

/-- Settles O46: the reader has the padding left, whose length and value are known. -/
theorem bitReaderInvertsWriter : Obligations.BitReaderInvertsWriter := by
  intro fields hfields
  refine ⟨_, getEach_flush fun p hp => (hfields p hp).2, ?_⟩
  rw [remaining_replicate]
  have hlength := eight_mul_flush_length (putEach fields [])
  exact ⟨(Nat.sub_eq_of_eq_add' hlength).symm, padding_le _, get_replicate_false _⟩

end Sys2Proof.Machine

/-! PROOFS of the family of 42_transform.md: each stage of the block transform is undone by its inverse (spec R170
to R180). The rotation sort comes first, then move-to-front, then the run-length stage. -/

namespace Sys2Proof.Machine

/-! ## Byte sequences in lexicographic order -/

/-- A byte sequence as numbers, whose library order is the order of R171. -/
def byteValues (bytes : List Byte) : List ℕ := bytes.map BitVec.toNat

theorem byteValues_injective : Function.Injective byteValues :=
  List.map_injective_iff.mpr fun _ _ => BitVec.eq_of_toNat_eq

/-- The first values decide, and equal ones leave it to the rest (R171). -/
theorem consValues_lt_iff {a b : ℕ} {x y : List ℕ} : a :: x < b :: y ↔ a < b ∨ a = b ∧ x < y :=
  List.cons_lt_cons_iff

theorem consValues_le_iff {a b : ℕ} {x y : List ℕ} : a :: x ≤ b :: y ↔ a < b ∨ a = b ∧ x ≤ y := by
  rw [le_iff_lt_or_eq, le_iff_lt_or_eq, consValues_lt_iff, List.cons.injEq, and_or_left, or_assoc]

/-- `compareBytes` decides the lexicographic order of the values (R171). -/
theorem compareBytes_cases (x y : List Byte) :
    match compareBytes x y with
    | .lt => byteValues x < byteValues y
    | .eq => byteValues x = byteValues y
    | .gt => byteValues y < byteValues x := by
  induction x, y using compareBytes.induct with
  | case1 => rfl
  | case2 b bs => simp [compareBytes, byteValues]
  | case3 a as => simp [compareBytes, byteValues]
  | case4 a as b bs hlt => simp [compareBytes, byteValues, consValues_lt_iff, hlt]
  | case5 a as b bs hle hlt => simp [compareBytes, byteValues, consValues_lt_iff, hle, hlt]
  | case6 a as b bs hle hge ih =>
    have heq : a.toNat = b.toNat := by omega
    simpa [compareBytes, byteValues, consValues_lt_iff, heq] using ih

/-- A final byte that both sequences have does not change their order. -/
theorem le_of_append_singleton_le {x y : List ℕ} {c : ℕ} (hlen : x.length = y.length)
    (h : x ++ [c] ≤ y ++ [c]) : x ≤ y := by
  induction x generalizing y with
  | nil => cases y with
    | nil => exact le_rfl
    | cons b y => simp at hlen
  | cons a x ih =>
    cases y with
    | nil => simp at hlen
    | cons b y =>
      rw [List.cons_append, List.cons_append, consValues_le_iff] at h
      rw [consValues_le_iff]
      exact h.imp_right fun ⟨hab, hrest⟩ => ⟨hab, ih (by simpa using hlen) hrest⟩

/-! ## Sorting by a key -/

/-- Insertion sort by a relation that compares keys puts the keys in ascending order. -/
theorem pairwise_insertionSort_key {α β : Type} [LinearOrder β] {r : α → α → Bool} (key : α → β)
    (hr : ∀ a b, r a b = true ↔ key a ≤ key b) (l : List α) :
    (l.insertionSort fun a b => r a b = true).Pairwise fun a b => key a ≤ key b := by
  have htotal : Std.Total fun a b => r a b = true :=
    ⟨fun a b => by simpa only [hr] using le_total (key a) (key b)⟩
  have htrans : IsTrans α fun a b => r a b = true :=
    ⟨fun a b c => by simpa only [hr] using le_trans⟩
  exact (List.pairwise_insertionSort _ l).imp fun {a b} => (hr a b).mp

/-- The rotation order compares the rotation first, then the index (R171). -/
theorem rotationLe_iff (block : List Byte) (i j : ℕ) :
    rotationLe block i j = true ↔
      toLex (byteValues (rotation block i), i) ≤ toLex (byteValues (rotation block j), j) := by
  have h := compareBytes_cases (rotation block i) (rotation block j)
  rw [Prod.Lex.toLex_le_toLex, rotationLe]
  cases hc : compareBytes (rotation block i) (rotation block j) <;> rw [hc] at h
  case lt => simp [h]
  case eq => simp [h]
  case gt => simp [h.ne', h.le]

/-- The order of the last column compares the byte first, then the index (R173). -/
theorem byteIndexLe_iff (p q : Byte × ℕ) :
    byteIndexLe p q = true ↔ toLex (p.1.toNat, p.2) ≤ toLex (q.1.toNat, q.2) := by
  simp [Prod.Lex.toLex_le_toLex, byteIndexLe]

theorem rotationOrder_perm (block : List Byte) : (rotationOrder block).Perm (List.range block.length) :=
  List.perm_insertionSort _ _

@[simp] theorem rotationOrder_length (block : List Byte) : (rotationOrder block).length = block.length := by
  simpa using (rotationOrder_perm block).length_eq

theorem mem_rotationOrder {block : List Byte} {i : ℕ} : i ∈ rotationOrder block ↔ i < block.length :=
  (rotationOrder_perm block).mem_iff.trans List.mem_range

/-- The rotations ascend along the rotation order (R171). -/
theorem rotationOrder_sorted (block : List Byte) :
    (rotationOrder block).Pairwise fun i j => byteValues (rotation block i) ≤ byteValues (rotation block j) :=
  (pairwise_insertionSort_key _ (rotationLe_iff block) _).imp fun h =>
    (Prod.Lex.toLex_le_toLex.mp h).elim le_of_lt fun ⟨heq, _⟩ => heq.le

theorem lastColumnOrder_perm (column : List Byte) :
    (lastColumnOrder column).Perm (List.range column.length) := by
  have h := (List.perm_insertionSort (fun p q => byteIndexLe p q = true) column.zipIdx).map Prod.snd
  rwa [List.zipIdx_map_snd, ← List.range_eq_range'] at h

@[simp] theorem lastColumnOrder_length (column : List Byte) :
    (lastColumnOrder column).length = column.length := by
  simpa using (lastColumnOrder_perm column).length_eq

theorem mem_lastColumnOrder {column : List Byte} {k : ℕ} : k ∈ lastColumnOrder column ↔ k < column.length :=
  (lastColumnOrder_perm column).mem_iff.trans List.mem_range

/-- The bytes of the last column ascend along `P`, and equal bytes keep their order (R173). -/
theorem lastColumnOrder_sorted (column : List Byte) :
    (lastColumnOrder column).Pairwise fun j k =>
      toLex ((column.getD j 0).toNat, j) ≤ toLex ((column.getD k 0).toNat, k) := by
  have hbyte {p : Byte × ℕ} (hp : p ∈ column.zipIdx.insertionSort fun p q => byteIndexLe p q = true) :
      column.getD p.2 0 = p.1 := by
    rw [List.getD_eq_getElem?_getD, List.mem_zipIdx_iff_getElem?.mp ((List.mem_insertionSort _).mp hp)]
    rfl
  refine List.pairwise_map.mpr ((pairwise_insertionSort_key _ byteIndexLe_iff column.zipIdx).imp_of_mem ?_)
  intro p q hp hq h
  rwa [hbyte hp, hbyte hq]

/-! ## Rotations one byte apart -/

/-- The index before `i`, cyclically (R172). -/
def previous (n i : ℕ) : ℕ := (i + n - 1) % n

/-- Each index comes before exactly one index. -/
theorem map_previous_range_perm (n : ℕ) : ((List.range n).map (previous n)).Perm (List.range n) := by
  have h : (List.range n).map (previous n) = (List.range n).rotate (n - 1) := by
    refine List.ext_getElem (by simp) fun i hi _ => ?_
    have hi : i < n := by simpa using hi
    rw [List.getElem_map, List.getElem_rotate, List.getElem_range, List.getElem_range, List.length_range,
      previous, Nat.add_sub_assoc (Nat.one_le_of_lt hi)]
  exact h ▸ List.rotate_perm _ _

/-- Rotating one byte further moves the first byte to the end (R171). -/
theorem rotation_eq_cons {block : List Byte} {i : ℕ} (hi : i < block.length) :
    ∃ rest, rotation block i = block.getD i 0 :: rest ∧
      rotation block (i + 1) = rest ++ [block.getD i 0] := by
  refine ⟨block.drop (i + 1) ++ block.take i, ?_, ?_⟩
  · rw [rotation, List.drop_eq_getElem_cons hi, List.getD_eq_getElem _ _ hi, List.cons_append]
  · rw [rotation, List.take_succ_eq_append_getElem hi, List.getD_eq_getElem _ _ hi, List.append_assoc]

/-- The rotation at the index before `i` moves the last byte of the rotation at `i` to the front (R172). -/
theorem rotation_previous {block : List Byte} {i : ℕ} (hi : i < block.length) :
    ∃ rest, rotation block (previous block.length i) = block.getD (previous block.length i) 0 :: rest ∧
      rotation block i = rest ++ [block.getD (previous block.length i) 0] := by
  have hlt : previous block.length i < block.length := Nat.mod_lt _ (Nat.zero_lt_of_lt hi)
  have hnext : rotation block (previous block.length i + 1) = rotation block i := by
    cases i with
    | zero =>
      have hlast : previous block.length 0 + 1 = block.length := by
        rw [previous, Nat.zero_add, Nat.mod_eq_of_lt (by omega), Nat.sub_add_cancel hi]
      simp [hlast, rotation]
    | succ j =>
      have hj : previous block.length (j + 1) = j := by
        rw [previous, Nat.add_right_comm, Nat.add_sub_cancel, Nat.add_mod_right,
          Nat.mod_eq_of_lt (by omega)]
      rw [hj]
  obtain ⟨rest, hprev, hsucc⟩ := rotation_eq_cons hlt
  exact ⟨rest, hprev, hnext ▸ hsucc⟩

/-- Comparing the last bytes first and then the rotations compares the rotations before them: the step from the
order of `P` to the rotation order (R173, R174). -/
theorem rotation_previous_le {block : List Byte} {i j : ℕ} (hi : i < block.length) (hj : j < block.length)
    (h : (block.getD (previous block.length i) 0).toNat < (block.getD (previous block.length j) 0).toNat ∨
      (block.getD (previous block.length i) 0).toNat = (block.getD (previous block.length j) 0).toNat ∧
        byteValues (rotation block i) ≤ byteValues (rotation block j)) :
    byteValues (rotation block (previous block.length i)) ≤
      byteValues (rotation block (previous block.length j)) := by
  obtain ⟨x, hprevi, hroti⟩ := rotation_previous hi
  obtain ⟨y, hprevj, hrotj⟩ := rotation_previous hj
  have hlen : x.length = y.length := by
    have hx := congrArg List.length hroti
    have hy := congrArg List.length hrotj
    simp [rotation] at hx hy
    omega
  rw [hprevi, hprevj, byteValues, byteValues, List.map_cons, List.map_cons, consValues_le_iff]
  refine h.imp_right fun ⟨hbyte, hle⟩ => ⟨hbyte, ?_⟩
  rw [hroti, hrotj, byteValues, byteValues, List.map_append, List.map_append, List.map_singleton,
    List.map_singleton, hbyte] at hle
  exact le_of_append_singleton_le (by simpa using hlen) hle

/-! ## The rotation sort -/

/-- The last column holds the last bytes of the sorted rotations (R172). -/
theorem bwt_column (block : List Byte) :
    (bwt block).1 = (rotationOrder block).map fun i => block.getD (previous block.length i) 0 := rfl

theorem getD_map_range {α : Type} (l : List α) (d : α) : (List.range l.length).map (l.getD · d) = l := by
  refine List.ext_getElem (by simp) fun i _ hi => ?_
  rw [List.getElem_map, List.getElem_range, List.getD_eq_getElem _ _ hi]

theorem bwt_column_perm (block : List Byte) : (bwt block).1.Perm block := by
  have horder := (rotationOrder_perm block).map fun i => block.getD (previous block.length i) 0
  have hprev := (map_previous_range_perm block.length).map (block.getD · 0)
  rw [List.map_map] at hprev
  exact horder.trans (hprev.trans (.of_eq (getD_map_range block 0)))

/-- Settles O48: each byte comes before exactly one rotation, and rotation 0 has a row. -/
theorem bwtPermutesBlock : Obligations.BwtPermutesBlock := by
  intro block hne
  have hmem : 0 ∈ rotationOrder block := mem_rotationOrder.mpr (List.length_pos_iff.mpr hne)
  exact ⟨bwt_column_perm block, rotationOrder_length block ▸ List.idxOf_lt_length_of_mem hmem⟩

/-- The index of the rotation in row `k` of the sorted rotations (R171). -/
def rowIndex (block : List Byte) (k : ℕ) : ℕ := (rotationOrder block).getD k 0

theorem rowIndex_eq_getElem {block : List Byte} {k : ℕ} (hk : k < (rotationOrder block).length) :
    rowIndex block k = (rotationOrder block)[k] := List.getD_eq_getElem _ _ hk

theorem rowIndex_lt {block : List Byte} {k : ℕ} (hk : k < block.length) : rowIndex block k < block.length := by
  have hk' : k < (rotationOrder block).length := by simpa using hk
  rw [rowIndex_eq_getElem hk']
  exact mem_rotationOrder.mp (List.getElem_mem hk')

theorem map_rowIndex_range (block : List Byte) :
    (List.range block.length).map (rowIndex block) = rotationOrder block := by
  have h := getD_map_range (rotationOrder block) 0
  rwa [rotationOrder_length] at h

/-- Row `k` of the last column is the byte before the rotation in row `k` (R172). -/
theorem bwt_column_getD {block : List Byte} {k : ℕ} (hk : k < block.length) :
    (bwt block).1.getD k 0 = block.getD (previous block.length (rowIndex block k)) 0 := by
  have hk' : k < (rotationOrder block).length := by simpa using hk
  rw [List.getD_eq_getElem _ _ (by simpa using hk), rowIndex_eq_getElem hk']
  simp [bwt_column]

/-- A later row holds a rotation that is not smaller (R171). -/
theorem rotation_rowIndex_mono {block : List Byte} {j k : ℕ} (hjk : j ≤ k) (hk : k < block.length) :
    byteValues (rotation block (rowIndex block j)) ≤ byteValues (rotation block (rowIndex block k)) := by
  have hk' : k < (rotationOrder block).length := by simpa using hk
  rcases hjk.eq_or_lt with rfl | hlt
  · exact le_rfl
  · rw [rowIndex_eq_getElem hk', rowIndex_eq_getElem (hlt.trans hk')]
    exact List.pairwise_iff_getElem.mp (rotationOrder_sorted block) _ _ _ _ hlt

/-- The rotations before the rows that `P` lists are the sorted rotations in order, since both lists ascend and
hold the same rotations. Equal rotations may stand at different indices (R174). -/
theorem map_lastColumnOrder_eq (block : List Byte) :
    (lastColumnOrder (bwt block).1).map (fun k => rotation block (previous block.length (rowIndex block k))) =
      (rotationOrder block).map (rotation block) := by
  have hperm : ((lastColumnOrder (bwt block).1).map fun k =>
      rotation block (previous block.length (rowIndex block k))).Perm
        ((rotationOrder block).map (rotation block)) := by
    have hcolumn := lastColumnOrder_perm (bwt block).1
    rw [bwt_length] at hcolumn
    have hrows := hcolumn.map (rowIndex block)
    rw [map_rowIndex_range] at hrows
    have hindices := (((hrows.trans (rotationOrder_perm block)).map (previous block.length)).trans
      (map_previous_range_perm block.length)).trans (rotationOrder_perm block).symm
    simpa [List.map_map, Function.comp_def] using hindices.map (rotation block)
  refine hperm.eq_of_pairwise (le := fun x y => byteValues x ≤ byteValues y) ?_ ?_ ?_
  · exact fun x y _ _ hxy hyx => byteValues_injective (le_antisymm hxy hyx)
  · refine List.pairwise_map.mpr ((lastColumnOrder_sorted (bwt block).1).imp_of_mem ?_)
    intro j k hj hk hle
    rw [mem_lastColumnOrder, bwt_length] at hj hk
    rw [Prod.Lex.toLex_le_toLex, bwt_column_getD hj, bwt_column_getD hk] at hle
    exact rotation_previous_le (rowIndex_lt hj) (rowIndex_lt hk)
      (hle.imp_right fun ⟨hbyte, hjk⟩ => ⟨hbyte, rotation_rowIndex_mono hjk hk⟩)
  · exact List.pairwise_map.mpr (rotationOrder_sorted block)

/-- One step of `Ibwt`: `P` leads from row `k` to a row whose rotation starts one byte later, and whose entry in
the last column is the byte passed over (R174). -/
theorem rotation_rowIndex_step {block : List Byte} {k : ℕ} (hk : k < block.length) :
    let k' := (lastColumnOrder (bwt block).1).getD k 0
    k' < block.length ∧ ∃ rest, rotation block (rowIndex block k) = (bwt block).1.getD k' 0 :: rest ∧
      rotation block (rowIndex block k') = rest ++ [(bwt block).1.getD k' 0] := by
  intro k'
  have hkP : k < (lastColumnOrder (bwt block).1).length := by simpa using hk
  have hkR : k < (rotationOrder block).length := by simpa using hk
  have hentry : k' = (lastColumnOrder (bwt block).1)[k] := List.getD_eq_getElem _ _ hkP
  have hlt : k' < block.length := by
    have h := mem_lastColumnOrder.mp (List.getElem_mem hkP)
    rwa [bwt_length, ← hentry] at h
  have hrow : rotation block (previous block.length (rowIndex block k')) = rotation block (rowIndex block k) := by
    have h := List.getElem_of_eq (map_lastColumnOrder_eq block) (i := k) (by simpa using hk)
    rwa [List.getElem_map, List.getElem_map, ← hentry, ← rowIndex_eq_getElem hkR] at h
  rw [← hrow, bwt_column_getD hlt]
  exact ⟨hlt, rotation_previous (rowIndex_lt hlt)⟩

/-- From row `k`, the loop of `Ibwt` reads the rotation in that row (R173). -/
theorem ibwtWalk_eq_take {block : List Byte} {t k : ℕ} (ht : t ≤ block.length) (hk : k < block.length) :
    ibwtWalk (bwt block).1 (lastColumnOrder (bwt block).1) t k =
      (rotation block (rowIndex block k)).take t := by
  induction t generalizing k with
  | zero => rfl
  | succ t ih =>
    obtain ⟨hlt, rest, hrow, hnext⟩ := rotation_rowIndex_step hk
    have hlen : t ≤ rest.length := by
      have h := congrArg List.length hrow
      simp [rotation] at h
      omega
    rw [ibwtWalk, hrow, List.take_succ_cons, ih (by omega) hlt, hnext, List.take_append_of_le_length hlen]

/-- The origin is the row of rotation 0 (R172). -/
theorem rowIndex_origin {block : List Byte} (hne : block ≠ []) : rowIndex block (bwt block).2 = 0 := by
  have hmem : 0 ∈ rotationOrder block := mem_rotationOrder.mpr (List.length_pos_iff.mpr hne)
  exact (rowIndex_eq_getElem (List.idxOf_lt_length_of_mem hmem)).trans (List.getElem_idxOf _)

/-- Settles O49: from the row of rotation 0 the walk reads the whole block. -/
theorem ibwtInvertsBwt : Obligations.IbwtInvertsBwt := by
  intro block
  by_cases hne : block = []
  · subst hne; rfl
  · calc ibwt (bwt block).1 (bwt block).2
        = (rotation block (rowIndex block (bwt block).2)).take block.length := by
          rw [ibwt, bwt_length, ibwtWalk_eq_take le_rfl (bwtPermutesBlock block hne).2]
      _ = block := by simp [rowIndex_origin hne, rotation]

/-! ## Move-to-front -/

theorem mem_initialRecency (b : Byte) : b ∈ initialRecency :=
  List.mem_map.mpr ⟨b.toNat, List.mem_range.mpr b.isLt, by simp⟩

theorem initialRecency_length : initialRecency.length = 256 := by simp [initialRecency]

/-- Every byte value stands in the initial recency list once (R176). -/
theorem initialRecency_nodup : initialRecency.Nodup := by
  refine List.Nodup.map_on (fun x hx y hy h => ?_) List.nodup_range
  have h := congrArg BitVec.toNat h
  rw [List.mem_range] at hx hy
  simp only [BitVec.toNat_ofNat] at h
  omega

/-- From one recency list with every byte, the inverse follows the ranks (R178). -/
theorem imtfFrom_mtfFrom {recency : List Byte} (hall : ∀ b, b ∈ recency) (bytes : List Byte) :
    imtfFrom recency (mtfFrom recency bytes) = bytes := by
  induction bytes generalizing recency with
  | nil => rfl
  | cons b bytes ih =>
    have hentry : recency.getD (recency.idxOf b) 0 = b := by
      rw [List.getD_eq_getElem _ _ (List.idxOf_lt_length_of_mem (hall b)), List.getElem_idxOf]
    rw [mtfFrom, imtfFrom, hentry, ih fun c => (moveToFront_perm (hall b)).mem_iff.mpr (hall c)]

/-- From one recency list without repetition, the ranks follow the inverse (R178). -/
theorem mtfFrom_imtfFrom {recency : List Byte} (hnodup : recency.Nodup) {ranks : List ℕ}
    (hranks : ∀ r ∈ ranks, r < recency.length) : mtfFrom recency (imtfFrom recency ranks) = ranks := by
  induction ranks generalizing recency with
  | nil => rfl
  | cons r ranks ih =>
    obtain ⟨hr, hranks⟩ := List.forall_mem_cons.mp hranks
    have hentry : recency.getD r 0 = recency[r] := List.getD_eq_getElem _ _ hr
    have hrank : recency.idxOf recency[r] = r := hnodup.idxOf_getElem r hr
    have hperm := moveToFront_perm (List.getElem_mem hr)
    rw [hrank] at hperm
    rw [imtfFrom, mtfFrom, hentry, hrank,
      ih (hperm.nodup_iff.mpr hnodup) fun q hq => hperm.length_eq ▸ hranks q hq]

/-- Settles O50: both directions keep the same recency list, which has every byte once. -/
theorem moveToFrontInverse : Obligations.MoveToFrontInverse :=
  ⟨imtfFrom_mtfFrom mem_initialRecency,
    fun _ hranks => mtfFrom_imtfFrom initialRecency_nodup (initialRecency_length ▸ hranks)⟩

/-! ## The run-length stage -/

@[simp] theorem unrle_nil : unrle [] = [] := rfl

@[simp] theorem unrle_cons (x : Item) (items : List Item) : unrle (x :: items) = itemRanks x ++ unrle items := rfl

@[simp] theorem unrle_append (xs ys : List Item) : unrle (xs ++ ys) = unrle xs ++ unrle ys :=
  List.flatMap_append

/-- Items of one length stand for that many zeros each (R180). -/
theorem unrle_replicate_run (m c : ℕ) : unrle (List.replicate m (.run c)) = List.replicate (m * c) 0 := by
  induction m with
  | zero => simp
  | succ m ih =>
    rw [List.replicate_succ, unrle_cons, ih, itemRanks, List.replicate_append_replicate, Nat.succ_mul,
      Nat.add_comm]

/-- The items of a run stand for its zeros (R179, R180). -/
theorem unrle_runItems (z : ℕ) : unrle (runItems z) = List.replicate z 0 := by
  have hrest : unrle (if z % 256 = 0 then [] else [.run (z % 256)]) = List.replicate (z % 256) 0 := by
    split
    case isTrue h => simp [h]
    case isFalse => simp [itemRanks]
  rw [runItems, unrle_append, unrle_replicate_run, hrest, List.replicate_append_replicate, Nat.div_add_mod']

theorem unrle_rleFrom (z : ℕ) (ranks : List ℕ) : unrle (rleFrom z ranks) = List.replicate z 0 ++ ranks := by
  induction ranks generalizing z with
  | nil => simp [rleFrom, unrle_runItems]
  | cons r ranks ih =>
    rw [rleFrom]
    split
    case isTrue h => rw [ih, h, List.replicate_succ', List.append_assoc, List.singleton_append]
    case isFalse => simp [unrle_runItems, itemRanks, ih]

/-- The range of an item (R179). -/
def itemInRange : Item → Prop
  | .lit r => 1 ≤ r ∧ r ≤ 255
  | .run c => 1 ≤ c ∧ c ≤ 256

theorem itemInRange_runItems {z : ℕ} {x : Item} (hx : x ∈ runItems z) : itemInRange x := by
  rcases List.mem_append.mp hx with hfull | hrest
  · rw [List.eq_of_mem_replicate hfull]
    simp [itemInRange]
  · split at hrest
    case isTrue => simp at hrest
    case isFalse h =>
      rw [List.mem_singleton.mp hrest, itemInRange]
      omega

theorem itemInRange_rleFrom {ranks : List ℕ} (hranks : ∀ r ∈ ranks, r < 256) (z : ℕ) :
    ∀ x ∈ rleFrom z ranks, itemInRange x := by
  induction ranks generalizing z with
  | nil => exact fun _ => itemInRange_runItems
  | cons r ranks ih =>
    obtain ⟨hr, hranks⟩ := List.forall_mem_cons.mp hranks
    rw [rleFrom]
    split
    case isTrue => exact ih hranks _
    case isFalse h =>
      have hlit : itemInRange (.lit r) := by
        rw [itemInRange]
        omega
      exact List.forall_mem_append.mpr
        ⟨fun _ => itemInRange_runItems, List.forall_mem_cons.mpr ⟨hlit, ih hranks 0⟩⟩

/-- Settles O51: the zeros read so far are the start of what the items stand for. -/
theorem runLengthInverse : Obligations.RunLengthInverse := by
  refine ⟨fun ranks => unrle_rleFrom 0 ranks, fun ranks hranks x hx => ?_⟩
  have h := itemInRange_rleFrom hranks 0 x hx
  cases x with
  | lit r => exact h
  | run c => exact h

end Sys2Proof.Machine

/-! PROOFS of the family of 43_entropy.md, first part: the canonical codes of a complete table tile the words of 31
bits, so none begins another, every word begins with one, and GetSymbol reads it (spec R204, R206, R221). -/

namespace Sys2Proof.Machine

/-! ## Bits at the front of a word -/

theorem fromBits_append (x y : Bits) : fromBits (x ++ y) = fromBits x * 2 ^ y.length + fromBits y := by
  rw [fromBits, List.foldl_append]
  exact fromBits_foldl y _

/-- The first bits of a word are its value without the bits behind them (R155). -/
theorem fromBits_take (bits : Bits) (k : ℕ) :
    fromBits (bits.take k) = fromBits bits / 2 ^ (bits.length - k) := by
  have hsplit := fromBits_append (bits.take k) (bits.drop k)
  have hlow := fromBits_lt (bits.drop k)
  rw [List.take_append_drop, List.length_drop] at hsplit
  rw [List.length_drop] at hlow
  rw [hsplit, Nat.mul_comm, Nat.mul_add_div (Nat.two_pow_pos _), Nat.div_eq_of_lt hlow, Nat.add_zero]

/-! ## The used symbols -/

theorem usedSymbols_perm (len : List ℕ) :
    (usedSymbols len).Perm (len.zipIdx.filter fun p => decide (0 < p.1)) :=
  List.perm_insertionSort _ _

/-- Filtering a list by its entries keeps the indices distinct. -/
theorem zipIdx_filter_snd_nodup (l : List ℕ) (p : ℕ × ℕ → Bool) : ((l.zipIdx.filter p).map Prod.snd).Nodup := by
  have hindices : (l.zipIdx.map Prod.snd).Nodup := by
    rw [List.zipIdx_map_snd]
    exact List.nodup_range'
  exact hindices.sublist (List.filter_sublist.map Prod.snd)

/-- Each used symbol stands once (R204). -/
theorem usedSymbols_snd_nodup (len : List ℕ) : ((usedSymbols len).map Prod.snd).Nodup :=
  ((usedSymbols_perm len).map Prod.snd).nodup_iff.mpr (zipIdx_filter_snd_nodup len _)

theorem getElem?_eq_some_getD {l : List ℕ} {s : ℕ} (hs : 0 < l.getD s 0) : l[s]? = some (l.getD s 0) := by
  cases hl : l[s]? with
  | none => simp [hl] at hs
  | some v => simp [hl]

/-- The used symbols are those with a length (R204). -/
theorem mem_map_snd_usedSymbols {len : List ℕ} {s : ℕ} :
    s ∈ (usedSymbols len).map Prod.snd ↔ 0 < len.getD s 0 := by
  constructor
  · intro hs
    obtain ⟨⟨l, s⟩, hp, rfl⟩ := List.mem_map.mp hs
    obtain ⟨hl, hpos⟩ := mem_usedSymbols.mp hp
    simpa [hl] using hpos
  · intro hs
    exact List.mem_map.mpr ⟨(len.getD s 0, s), mem_usedSymbols.mpr ⟨getElem?_eq_some_getD hs, hs⟩, rfl⟩

theorem lengthSymbolLe_iff (p q : ℕ × ℕ) : lengthSymbolLe p q = true ↔ toLex p ≤ toLex q := by
  simp [Prod.Lex.toLex_le_toLex, lengthSymbolLe]

/-- The used symbols stand in order of their lengths (R204). -/
theorem usedSymbols_sorted (len : List ℕ) : (usedSymbols len).Pairwise fun p q => p.1 ≤ q.1 :=
  (pairwise_insertionSort_key _ lengthSymbolLe_iff _).imp fun h =>
    (Prod.Lex.toLex_le_toLex.mp h).elim le_of_lt fun ⟨heq, _⟩ => heq.le

theorem usedSymbols_le {len : List ℕ} (hlen : ∀ l ∈ len, l ≤ 31) : ∀ p ∈ usedSymbols len, p.1 ≤ 31 := by
  rintro ⟨l, s⟩ hp
  obtain ⟨hl, -⟩ := mem_usedSymbols.mp hp
  exact hlen l (List.mem_of_getElem? hl)

/-- The unused symbols have no part in the Kraft sum (R206). -/
theorem kraftSum_eq_sum_usedSymbols (len : List ℕ) :
    kraftSum len = ((usedSymbols len).map fun p => 2 ^ (31 - p.1)).sum := by
  have hfilter (pairs : List (ℕ × ℕ)) :
      ((pairs.filter fun p => decide (0 < p.1)).map fun p => 2 ^ (31 - p.1)).sum =
        ((pairs.map Prod.fst).map fun l => if l = 0 then 0 else 2 ^ (31 - l)).sum := by
    induction pairs with
    | nil => rfl
    | cons p pairs ih =>
      rcases Nat.eq_zero_or_pos p.1 with hp | hp
      · simpa [hp] using ih
      · simpa [hp, hp.ne'] using ih
  rw [((usedSymbols_perm len).map _).sum_eq, hfilter, List.zipIdx_map_fst, kraftSum]

/-! ## The code table as a tiling

A code of `l` bits stands for the words of 31 bits that begin with it. The next code in canonical order begins where
these end, so the table tiles the words from 0 up to its Kraft sum. -/

/-- The first of the words of 31 bits that begin with a code. -/
def Code.start (c : Code) : ℕ := c.code * 2 ^ (31 - c.len)

/-- The end of the words of 31 bits that begin with a code. -/
def Code.stop (c : Code) : ℕ := (c.code + 1) * 2 ^ (31 - c.len)

theorem Code.start_lt_stop (c : Code) : c.start < c.stop :=
  Nat.mul_lt_mul_of_pos_right (Nat.lt_succ_self _) (Nat.two_pow_pos _)

/-- The rows tile the words from `a` up to `b`, in order. -/
def Tiles : ℕ → List Code → ℕ → Prop
  | a, [], b => a = b
  | a, c :: rows, b => c.len ≤ 31 ∧ c.start = a ∧ Tiles c.stop rows b

/-- Each code begins where the words of the one before it end (R204). -/
theorem tiles_codesAfter {l c : ℕ} {used : List (ℕ × ℕ)} (hl : l ≤ 31) (hle : ∀ p ∈ used, p.1 ≤ 31)
    (hsorted : (l :: used.map Prod.fst).Pairwise (· ≤ ·)) :
    Tiles ((c + 1) * 2 ^ (31 - l)) (codesAfter l c used)
      ((c + 1) * 2 ^ (31 - l) + (used.map fun p => 2 ^ (31 - p.1)).sum) := by
  induction used generalizing l c with
  | nil => rfl
  | cons p used ih =>
    obtain ⟨hp, hused⟩ := List.forall_mem_cons.mp hle
    obtain ⟨hlp, hrest⟩ := List.pairwise_cons.mp hsorted
    have hstart : ((c + 1) <<< (p.1 - l)) * 2 ^ (31 - p.1) = (c + 1) * 2 ^ (31 - l) := by
      have hlp : l ≤ p.1 := hlp p.1 (by simp)
      rw [Nat.shiftLeft_eq, Nat.mul_assoc, ← Nat.pow_add, show p.1 - l + (31 - p.1) = 31 - l by omega]
    have hnext := ih (c := (c + 1) <<< (p.1 - l)) hp hused hrest
    rw [Nat.succ_mul, hstart, Nat.add_assoc] at hnext
    refine ⟨hp, hstart, ?_⟩
    rwa [Code.stop, Nat.succ_mul, hstart]

/-- The code table tiles the words from 0 up to its Kraft sum (R204, R206). -/
theorem tiles_codes {len : List ℕ} (hlen : ∀ l ∈ len, l ≤ 31) : Tiles 0 (codes len) (kraftSum len) := by
  have hle := usedSymbols_le hlen
  have hsorted := List.pairwise_map.mpr (usedSymbols_sorted len)
  rw [kraftSum_eq_sum_usedSymbols, codes]
  cases hused : usedSymbols len with
  | nil => rfl
  | cons p used =>
    rw [hused] at hle hsorted
    obtain ⟨hp, hle⟩ := List.forall_mem_cons.mp hle
    have hrest := tiles_codesAfter (c := 0) hp hle hsorted
    rw [Nat.zero_add, Nat.one_mul] at hrest
    exact ⟨hp, Nat.zero_mul _, by simpa [Code.stop] using hrest⟩

theorem Tiles.le {rows : List Code} {a b : ℕ} (h : Tiles a rows b) : a ≤ b := by
  induction rows generalizing a with
  | nil => exact le_of_eq h
  | cons c rows ih =>
    obtain ⟨-, rfl, hrest⟩ := h
    exact c.start_lt_stop.le.trans (ih hrest)

theorem Tiles.bounds {rows : List Code} {a b : ℕ} (h : Tiles a rows b) :
    ∀ c ∈ rows, c.len ≤ 31 ∧ a ≤ c.start ∧ c.stop ≤ b := by
  induction rows generalizing a with
  | nil => simp
  | cons c rows ih =>
    obtain ⟨hc, rfl, hrest⟩ := h
    refine List.forall_mem_cons.mpr ⟨⟨hc, le_rfl, hrest.le⟩, fun d hd => ?_⟩
    obtain ⟨hd, hstart, hstop⟩ := ih hrest d hd
    exact ⟨hd, c.start_lt_stop.le.trans hstart, hstop⟩

/-- No word begins with two codes. -/
theorem Tiles.eq_or_disjoint {rows : List Code} {a b : ℕ} (h : Tiles a rows b) {c d : Code} (hc : c ∈ rows)
    (hd : d ∈ rows) : c = d ∨ c.stop ≤ d.start ∨ d.stop ≤ c.start := by
  induction rows generalizing a with
  | nil => cases hc
  | cons e rows ih =>
    obtain ⟨-, -, hrest⟩ := h
    have hlater {x : Code} (hx : x ∈ rows) : e.stop ≤ x.start := (hrest.bounds x hx).2.1
    rcases List.mem_cons.mp hc with hce | hc' <;> rcases List.mem_cons.mp hd with hde | hd'
    · exact .inl (hce.trans hde.symm)
    · exact .inr (.inl (hce ▸ hlater hd'))
    · exact .inr (.inr (hde ▸ hlater hc'))
    · exact ih hrest hc' hd'

/-- Every word of the tiled range begins with a code. -/
theorem Tiles.exists_mem {rows : List Code} {a b v : ℕ} (h : Tiles a rows b) (hav : a ≤ v) (hvb : v < b) :
    ∃ c ∈ rows, c.start ≤ v ∧ v < c.stop := by
  induction rows generalizing a with
  | nil => exact absurd hvb (not_lt.mpr (h ▸ hav))
  | cons c rows ih =>
    obtain ⟨-, rfl, hrest⟩ := h
    rcases lt_or_ge v c.stop with hv | hv
    · exact ⟨c, List.mem_cons_self, hav, hv⟩
    · obtain ⟨d, hd, hdv⟩ := ih hrest hv
      exact ⟨d, List.mem_cons_of_mem _ hd, hdv⟩

/-- The last code ends the tiled range. -/
theorem Tiles.stop_getLast {rows : List Code} {a b : ℕ} (h : Tiles a rows b) {c : Code}
    (hc : rows.getLast? = some c) : c.stop = b := by
  induction rows generalizing a with
  | nil => cases hc
  | cons d rows ih =>
    obtain ⟨-, -, hrest⟩ := h
    cases rows with
    | nil => exact Option.some.inj hc ▸ hrest
    | cons e rows => exact ih hrest (by rwa [List.getLast?_cons_cons] at hc)

/-! ## The bits of a row -/

/-- The bits of a row's code, most significant first (R204). -/
def Code.bits (c : Code) : Bits := bitsOf c.code c.len

@[simp] theorem Code.bits_length (c : Code) : c.bits.length = c.len := bitsOf_length _ _

theorem Code.fromBits_bits {c : Code} (hfit : c.code < 2 ^ c.len) : fromBits c.bits = c.code := by
  rw [Code.bits, fromBits_bitsOf, Nat.mod_eq_of_lt hfit]

/-- A word that begins a code is no greater than the code, and the words that begin with it go beyond the code's. -/
theorem Code.start_lt_of_prefix {c d : Code} (hc : c.code < 2 ^ c.len) (hd : d.code < 2 ^ d.len) (hlen : d.len ≤ 31)
    (h : c.bits <+: d.bits) : c.start ≤ d.start ∧ d.start < c.stop := by
  obtain ⟨tail, htail⟩ := h
  have hlength := congrArg List.length htail
  have hvalue := congrArg fromBits htail
  have hlow := fromBits_lt tail
  rw [List.length_append, Code.bits_length, Code.bits_length] at hlength
  rw [fromBits_append, fromBits_bits hc, fromBits_bits hd] at hvalue
  have hpow : 2 ^ (31 - c.len) = 2 ^ tail.length * 2 ^ (31 - d.len) := by
    rw [← Nat.pow_add, show tail.length + (31 - d.len) = 31 - c.len by omega]
  rw [start, start, stop, hpow, ← hvalue, ← Nat.mul_assoc, ← Nat.mul_assoc]
  constructor
  · exact Nat.mul_le_mul_right _ (Nat.le_add_right _ _)
  · exact Nat.mul_lt_mul_of_pos_right (by rw [Nat.succ_mul]; omega) (Nat.two_pow_pos _)

/-- A word of 31 bits within the words of a code begins with its bits. -/
theorem Code.take_eq_bits {c : Code} {word : Bits} (hword : word.length = 31) (hlen : c.len ≤ 31)
    (hstart : c.start ≤ fromBits word) (hstop : fromBits word < c.stop) : word.take c.len = c.bits := by
  have hle : c.len ≤ word.length := hword ▸ hlen
  have hvalue : fromBits (word.take c.len) = c.code := by
    rw [fromBits_take, hword]
    exact Nat.div_eq_of_lt_le hstart hstop
  have hbits := bitsOf_fromBits (word.take c.len)
  rwa [hvalue, List.length_take_of_le hle, eq_comm] at hbits

/-- The rows are those of the used symbols, in their order (R204). -/
theorem codes_map_symbol (len : List ℕ) : (codes len).map Code.symbol = (usedSymbols len).map Prod.snd := by
  rw [← codes_map, List.map_map]
  rfl

/-- A symbol has one row (R204). -/
theorem eq_of_symbol_eq {len : List ℕ} {c d : Code} (hc : c ∈ codes len) (hd : d ∈ codes len)
    (h : c.symbol = d.symbol) : c = d :=
  List.inj_on_of_nodup_map (codes_map_symbol len ▸ usedSymbols_snd_nodup len) hc hd h

/-- The row of a symbol is the one that holds it. -/
theorem symbolBits_of_mem {len : List ℕ} {c : Code} (hc : c ∈ codes len) :
    symbolBits (codes len) c.symbol = c.bits := by
  rw [symbolBits, codeOf]
  cases hfind : (codes len).find? fun row => row.symbol == c.symbol with
  | some row =>
    have hsymbol : row.symbol = c.symbol := by simpa using List.find?_some hfind
    rw [eq_of_symbol_eq (List.mem_of_find?_eq_some hfind) hc hsymbol]
    rfl
  | none => simpa using List.find?_eq_none.mp hfind c hc

theorem len_pos_of_mem {len : List ℕ} {c : Code} (hc : c ∈ codes len) : 0 < c.len :=
  (mem_usedSymbols.mp (codes_map len ▸ List.mem_map_of_mem hc)).2

/-- A symbol with a length has a row (R204). -/
theorem exists_mem_codes {len : List ℕ} {s : ℕ} (hs : 0 < len.getD s 0) : ∃ c ∈ codes len, c.symbol = s := by
  rw [← List.mem_map, codes_map_symbol]
  exact mem_map_snd_usedSymbols.mpr hs

/-- The row found for the bits read so far has these bits (R221). -/
theorem symbolOf_eq_some {len : List ℕ} {s : ℕ} {read : Bits}
    (h : symbolOf (codes len) read.length (fromBits read) = some s) :
    ∃ c ∈ codes len, c.symbol = s ∧ c.bits = read := by
  obtain ⟨c, hfind, hs⟩ := Option.map_eq_some_iff.mp h
  obtain ⟨hl, hv⟩ : c.len = read.length ∧ c.code = fromBits read := by simpa using List.find?_some hfind
  exact ⟨c, List.mem_of_find?_eq_some hfind, hs, by rw [Code.bits, hl, hv, bitsOf_fromBits]⟩

/-! ## A complete table -/

section Complete

variable {len : List ℕ} (hlen : ∀ l ∈ len, l ≤ 31) (hkraft : kraftSum len = 2 ^ 31)

include hlen hkraft

/-- The codes of a complete table tile all the words of 31 bits (R204, R206). -/
theorem tiles_complete : Tiles 0 (codes len) (2 ^ 31) := hkraft ▸ tiles_codes hlen

/-- A code fits its length (R204). -/
theorem code_lt_of_mem {c : Code} (hc : c ∈ codes len) : c.code < 2 ^ c.len := by
  obtain ⟨hle, -, hstop⟩ := (tiles_complete hlen hkraft).bounds c hc
  rw [Code.stop, show 2 ^ 31 = 2 ^ c.len * 2 ^ (31 - c.len) by rw [← Nat.pow_add, Nat.add_sub_cancel' hle]] at hstop
  exact Nat.le_of_mul_le_mul_right hstop (Nat.two_pow_pos _)

/-- No code begins another (R204). -/
theorem eq_of_bits_prefix {c d : Code} (hc : c ∈ codes len) (hd : d ∈ codes len) (h : c.bits <+: d.bits) :
    c = d := by
  have htiles := tiles_complete hlen hkraft
  obtain ⟨hle, -⟩ := htiles.bounds d hd
  obtain ⟨hstart, hstop⟩ :=
    Code.start_lt_of_prefix (code_lt_of_mem hlen hkraft hc) (code_lt_of_mem hlen hkraft hd) hle h
  have hdpos := d.start_lt_stop
  rcases htiles.eq_or_disjoint hc hd with heq | hdisjoint | hdisjoint
  · exact heq
  · omega
  · omega

/-- The last code is all ones (R204). -/
theorem getLast_code {c : Code} (hc : (codes len).getLast? = some c) : c.code + 1 = 2 ^ c.len := by
  have htiles := tiles_complete hlen hkraft
  obtain ⟨hle, -⟩ := htiles.bounds c (List.mem_of_getLast? hc)
  have hstop := htiles.stop_getLast hc
  rw [Code.stop, show 2 ^ 31 = 2 ^ c.len * 2 ^ (31 - c.len) by rw [← Nat.pow_add, Nat.add_sub_cancel' hle]] at hstop
  exact Nat.eq_of_mul_eq_mul_right (Nat.two_pow_pos _) hstop

/-- Every word of 31 bits begins with a code (R221). -/
theorem exists_bits_prefix {reader : Bits} (hreader : 31 ≤ reader.length) :
    ∃ c ∈ codes len, c.bits <+: reader := by
  have hword : (reader.take 31).length = 31 := List.length_take_of_le hreader
  have htiles := tiles_complete hlen hkraft
  obtain ⟨c, hc, hstart, hstop⟩ := htiles.exists_mem (v := fromBits (reader.take 31)) (Nat.zero_le _)
    (lt_of_lt_of_eq (fromBits_lt _) (by rw [hword]))
  obtain ⟨hle, -⟩ := htiles.bounds c hc
  refine ⟨c, hc, ?_⟩
  rw [← Code.take_eq_bits hword hle hstart hstop]
  exact (List.take_prefix _ _).trans (List.take_prefix _ _)

/-! ## GetSymbol -/

/-- A row is found by its bits (R221). -/
theorem symbolOf_bits {c : Code} (hc : c ∈ codes len) :
    symbolOf (codes len) c.bits.length (fromBits c.bits) = some c.symbol := by
  have hvalue := Code.fromBits_bits (code_lt_of_mem hlen hkraft hc)
  cases hs : symbolOf (codes len) c.bits.length (fromBits c.bits) with
  | some s =>
    obtain ⟨d, hd, rfl, hbits⟩ := symbolOf_eq_some hs
    rw [eq_of_bits_prefix hlen hkraft hd hc (hbits ▸ List.prefix_rfl)]
  | none =>
    have hnone := List.find?_eq_none.mp (Option.map_eq_none_iff.mp hs) c hc
    simp [hvalue] at hnone

/-- With some bits of a code read, GetSymbol reads the others and gives its symbol (R221). -/
theorem getSymbolFrom_bits {c : Code} (hc : c ∈ codes len) {read more : Bits} (hmore : more ≠ [])
    (hbits : read ++ more = c.bits) (rest : Bits) :
    getSymbolFrom (codes len) (fromBits read) read.length (more ++ rest) = some (c.symbol, rest) := by
  induction more generalizing read with
  | nil => exact absurd rfl hmore
  | cons b more ih =>
    have hread : fromBits (read ++ [b]) = 2 * fromBits read + b.toNat := by
      rw [fromBits_append, fromBits_cons]
      simp [Nat.mul_comm]
    have hbits' : (read ++ [b]) ++ more = c.bits := by simpa using hbits
    have hlength : read.length + 1 = (read ++ [b]).length := by simp
    rw [List.cons_append, getSymbolFrom, ← hread, hlength]
    cases hs : symbolOf (codes len) (read ++ [b]).length (fromBits (read ++ [b])) with
    | some s =>
      obtain ⟨d, hd, rfl, hd'⟩ := symbolOf_eq_some hs
      have heq : d = c := eq_of_bits_prefix hlen hkraft hd hc (hd' ▸ ⟨more, hbits'⟩)
      have hnil : more = [] := by simpa [← hd', heq] using hbits'
      rw [heq, hnil]
      rfl
    | none =>
      have hne : more ≠ [] := by
        rintro rfl
        rw [List.append_nil] at hbits'
        rw [hbits', symbolOf_bits hlen hkraft hc] at hs
        cases hs
      exact ih hne hbits'

/-- GetSymbol reads a code and leaves what follows (R221). -/
theorem getSymbol_bits {c : Code} (hc : c ∈ codes len) (rest : Bits) :
    getSymbol (codes len) (c.bits ++ rest) = some (c.symbol, rest) := by
  have hne : c.bits ≠ [] := by
    rw [← List.length_pos_iff, Code.bits_length]
    exact len_pos_of_mem hc
  exact getSymbolFrom_bits hlen hkraft hc (read := []) hne rfl rest

end Complete

/-- Settles O53: two codes of which one begins the other share a word of 31 bits, and the last code ends the words. -/
theorem canonicalCodesArePrefixFree : Obligations.CanonicalCodesArePrefixFree := by
  refine fun len hlen hkraft => ⟨fun c => code_lt_of_mem hlen hkraft, fun c hc d hd hne hprefix => ?_,
    fun c => getLast_code hlen hkraft⟩
  rw [symbolBits_of_mem hc, symbolBits_of_mem hd] at hprefix
  exact hne (congrArg Code.symbol (eq_of_bits_prefix hlen hkraft hc hd hprefix))

/-- Settles O55: no shorter word than the code ends the reading, and every 31 bits begin with a code. -/
theorem getSymbolReadsCode : Obligations.GetSymbolReadsCode := by
  refine fun len hlen hkraft => ⟨fun c hc rest => ?_, fun reader hreader => ?_⟩
  · rw [symbolBits_of_mem hc]
    exact getSymbol_bits hlen hkraft hc rest
  · obtain ⟨c, hc, rest, rfl⟩ := exists_bits_prefix hlen hkraft hreader
    obtain ⟨hle, -⟩ := (tiles_complete hlen hkraft).bounds c hc
    refine ⟨c.symbol, rest, getSymbol_bits hlen hkraft hc rest, ?_⟩
    rw [List.length_append, Code.bits_length]
    omega

end Sys2Proof.Machine

/-! PROOFS of the family of 43_entropy.md, second part: the lengths of the Huffman construction are the depths of the
leaves of one full tree whose weight bounds its depth (spec R201 to R203, R206). -/

namespace Sys2Proof.Machine

/-! ## Deepening -/

theorem getD_le_of_forall_le {l : List ℕ} {d : ℕ} (h : ∀ v ∈ l, v ≤ d) (s : ℕ) : l.getD s 0 ≤ d := by
  rcases lt_or_ge s l.length with hs | hs
  · rw [List.getD_eq_getElem _ _ hs]
    exact h _ (List.getElem_mem hs)
  · rw [List.getD_eq_default _ _ hs]
    exact Nat.zero_le d

theorem deepen_getD_of_mem {symbols len : List ℕ} {s : ℕ} (hs : s < len.length) (hmem : s ∈ symbols) :
    (deepen symbols len).getD s 0 = len.getD s 0 + 1 := by
  rw [deepen_getD symbols hs, if_pos hmem]

theorem deepen_getD_of_not_mem {symbols len : List ℕ} {s : ℕ} (hmem : s ∉ symbols) :
    (deepen symbols len).getD s 0 = len.getD s 0 := by
  rcases lt_or_ge s len.length with hs | hs
  · rw [deepen_getD symbols hs, if_neg hmem, Nat.add_zero]
  · rw [List.getD_eq_default _ _ (by simpa using hs), List.getD_eq_default _ _ hs]

/-! ## The loop of `Lengths`

Every live node is a full tree over its symbols, whose depths in it are their lengths so far. A tree of depth `d`
weighs `F(d+2)` at least, and its deeper half was taken as one of the two least nodes, so every live node weighs
`F(d+1)` at least (R203 (a), (c)). -/

/-- The symbols of the live nodes. -/
def liveSymbols (nodes : List Node) : List ℕ := nodes.flatMap Node.symbols

@[simp] theorem liveSymbols_cons (x : Node) (nodes : List Node) :
    liveSymbols (x :: nodes) = x.symbols ++ liveSymbols nodes := rfl

/-- Kraft equality for the symbols of one node, in units of any depth that they are within (R203 (a)). -/
def FullTree (len : List ℕ) (x : Node) : Prop :=
  ∀ d, (∀ s ∈ x.symbols, len.getD s 0 ≤ d) → (x.symbols.map fun s => 2 ^ (d - len.getD s 0)).sum = 2 ^ d

/-- A node is within a depth that its weight allows, and that the other live nodes' weights allow its halves
(R203 (c)). -/
def DepthBound (len : List ℕ) (nodes : List Node) (x : Node) : Prop :=
  ∃ d, (∀ s ∈ x.symbols, len.getD s 0 ≤ d) ∧ Nat.fib (d + 2) ≤ x.weight ∧
    ∀ y ∈ nodes, Nat.fib (d + 1) ≤ y.weight

/-- What the loop of `Lengths` keeps (R202, R203). -/
structure LoopInv (f : List ℕ) (nodes : List Node) (len : List ℕ) : Prop where
  length_eq : len.length = f.length
  sorted : nodes.Pairwise fun x y => nodeLe x y = true
  weight_le : (nodes.map Node.weight).sum ≤ f.sum
  nodup : (liveSymbols nodes).Nodup
  mem_iff : ∀ s, s ∈ liveSymbols nodes ↔ 0 < f.getD s 0
  unused : ∀ s, f.getD s 0 = 0 → len.getD s 0 = 0
  full : ∀ x ∈ nodes, FullTree len x
  depth : ∀ x ∈ nodes, DepthBound len nodes x

theorem FullTree.congr {len len' : List ℕ} {x : Node} (h : FullTree len x)
    (heq : ∀ s ∈ x.symbols, len'.getD s 0 = len.getD s 0) : FullTree len' x := by
  intro d hd
  rw [← h d fun s hs => heq s hs ▸ hd s hs]
  exact congrArg List.sum (List.map_congr_left fun s hs => by rw [heq s hs])

theorem FullTree.symbols_ne_nil {len : List ℕ} {x : Node} (h : FullTree len x) : x.symbols ≠ [] := fun hnil => by
  simpa [hnil] using h 0

/-- Two full trees under a new root are a full tree (R203 (a)). -/
theorem FullTree.merge {len len' : List ℕ} {a b : Node} (ha : FullTree len a) (hb : FullTree len b)
    (hdeeper : ∀ s ∈ a.symbols ++ b.symbols, len'.getD s 0 = len.getD s 0 + 1) :
    FullTree len' (mergeNodes a b) := by
  intro d hd
  have hle : ∀ s ∈ a.symbols ++ b.symbols, len.getD s 0 + 1 ≤ d := fun s hs => hdeeper s hs ▸ hd s hs
  obtain ⟨e, rfl⟩ : ∃ e, d = e + 1 := by
    obtain ⟨s, hs⟩ := List.exists_mem_of_ne_nil _ ha.symbols_ne_nil
    exact ⟨d - 1, (Nat.sub_add_cancel (Nat.le_of_add_left_le (hle s (List.mem_append_left _ hs)))).symm⟩
  obtain ⟨hda, hdb⟩ := List.forall_mem_append.mp hle
  calc ((a.symbols ++ b.symbols).map fun s => 2 ^ (e + 1 - len'.getD s 0)).sum
      = ((a.symbols ++ b.symbols).map fun s => 2 ^ (e - len.getD s 0)).sum :=
        congrArg List.sum (List.map_congr_left fun s hs => by rw [hdeeper s hs, Nat.add_sub_add_right])
    _ = 2 ^ e + 2 ^ e := by
        rw [List.map_append, List.sum_append, ha e fun s hs => Nat.le_of_succ_le_succ (hda s hs),
          hb e fun s hs => Nat.le_of_succ_le_succ (hdb s hs)]
    _ = 2 ^ (e + 1) := (Nat.two_pow_succ e).symm

/-- The tree over the two least nodes is one deeper than the deeper of them, and weighs as much as both
(R203 (c)). -/
theorem DepthBound.merge {len len' : List ℕ} {a b : Node} {rest nodes : List Node}
    (hsorted : (a :: b :: rest).Pairwise fun x y => nodeLe x y = true)
    (ha : DepthBound len (a :: b :: rest) a) (hb : DepthBound len (a :: b :: rest) b)
    (hdeeper : ∀ s ∈ a.symbols ++ b.symbols, len'.getD s 0 = len.getD s 0 + 1)
    (hnodes : ∀ y ∈ nodes, y = mergeNodes a b ∨ y ∈ rest) : DepthBound len' nodes (mergeNodes a b) := by
  obtain ⟨da, hda, hwa, hlivea⟩ := ha
  obtain ⟨db, hdb, hwb, hliveb⟩ := hb
  have hbhalf : Nat.fib (da + 1) ≤ b.weight := hlivea b (by simp)
  have hahalf : Nat.fib (db + 1) ≤ a.weight := hliveb a (by simp)
  obtain ⟨hleast, hsorted⟩ := List.pairwise_cons.mp (pairwise_weight hsorted)
  obtain ⟨hleastb, -⟩ := List.pairwise_cons.mp hsorted
  have hheavier {w : ℕ} (hw : w ≤ a.weight ∨ w ≤ b.weight) : ∀ y ∈ nodes, w ≤ y.weight := by
    intro y hy
    rcases hnodes y hy with rfl | hy
    · simp only [mergeNodes]
      omega
    · have hay := hleast y.weight (List.mem_cons_of_mem _ (List.mem_map_of_mem hy))
      have hby := hleastb y.weight (List.mem_map_of_mem hy)
      omega
  have hwithin : ∀ s ∈ (mergeNodes a b).symbols, len'.getD s 0 ≤ max da db + 1 := by
    intro s hs
    rw [hdeeper s hs]
    rcases List.mem_append.mp hs with hs | hs
    · have := hda s hs
      omega
    · have := hdb s hs
      omega
  refine ⟨max da db + 1, hwithin, ?_⟩
  rcases le_total da db with hle | hle
  · rw [max_eq_right hle, Nat.fib_add_two]
    exact ⟨Nat.add_le_add hahalf hwb, hheavier (.inr hwb)⟩
  · rw [max_eq_left hle, Nat.fib_add_two, Nat.add_comm]
    exact ⟨Nat.add_le_add hwa hbhalf, hheavier (.inl hwa)⟩

theorem LoopInv.mem_root {f len : List ℕ} {root : Node} (h : LoopInv f [root] len) (s : ℕ) :
    s ∈ root.symbols ↔ 0 < f.getD s 0 := by
  rw [← h.mem_iff, liveSymbols_cons, List.mem_append]
  exact (or_iff_left (List.not_mem_nil)).symm

/-- A merge keeps the symbols of the live nodes (R202). -/
theorem liveSymbols_merge_perm (a b : Node) (rest : List Node) :
    (liveSymbols (rest.orderedInsert (fun x y => nodeLe x y = true) (mergeNodes a b))).Perm
      (liveSymbols (a :: b :: rest)) := by
  have hperm := List.perm_orderedInsert (fun x y => nodeLe x y = true) (mergeNodes a b) rest
  simpa [liveSymbols, mergeNodes] using hperm.flatMap_right Node.symbols

section Merge

variable {f len : List ℕ} {a b : Node} {rest : List Node} (h : LoopInv f (a :: b :: rest) len)

include h

/-- The symbols under the two least nodes are used ones. -/
theorem LoopInv.used_of_mem {s : ℕ} (hs : s ∈ a.symbols ++ b.symbols) : 0 < f.getD s 0 := by
  rw [← h.mem_iff, liveSymbols_cons, liveSymbols_cons, ← List.append_assoc]
  exact List.mem_append_left _ hs

/-- A merge makes the symbols under the two least nodes one deeper (R202). -/
theorem LoopInv.deepen_merged {s : ℕ} (hs : s ∈ a.symbols ++ b.symbols) :
    (deepen (a.symbols ++ b.symbols) len).getD s 0 = len.getD s 0 + 1 := by
  refine deepen_getD_of_mem ?_ hs
  obtain ⟨hlt, -⟩ := List.getElem?_eq_some_iff.mp (getElem?_eq_some_getD (h.used_of_mem hs))
  rwa [h.length_eq]

/-- A merge leaves the depths under the other nodes as they are (R202). -/
theorem LoopInv.deepen_rest {x : Node} (hx : x ∈ rest) {s : ℕ} (hs : s ∈ x.symbols) :
    (deepen (a.symbols ++ b.symbols) len).getD s 0 = len.getD s 0 := by
  have hnodup := h.nodup
  rw [liveSymbols_cons, liveSymbols_cons, ← List.append_assoc, List.nodup_append'] at hnodup
  obtain ⟨-, -, hdisjoint⟩ := hnodup
  exact deepen_getD_of_not_mem fun hmem => hdisjoint hmem (List.mem_flatMap_of_mem hx hs)

/-- One merge keeps what the loop keeps. -/
theorem LoopInv.merge : LoopInv f (rest.orderedInsert (fun x y => nodeLe x y = true) (mergeNodes a b))
    (deepen (a.symbols ++ b.symbols) len) := by
  have := nodeLe_trans
  have := nodeLe_total
  have hperm := List.perm_orderedInsert (fun x y => nodeLe x y = true) (mergeNodes a b) rest
  have hlive := liveSymbols_merge_perm a b rest
  have hnodes {y : Node} (hy : y ∈ rest.orderedInsert (fun x y => nodeLe x y = true) (mergeNodes a b)) :
      y = mergeNodes a b ∨ y ∈ rest := List.mem_cons.mp (hperm.mem_iff.mp hy)
  exact {
    length_eq := (deepen_length _ _).trans h.length_eq
    sorted := h.sorted.of_cons.of_cons.orderedInsert _ _
    weight_le := by
      rw [(hperm.map Node.weight).sum_eq]
      simpa [mergeNodes, Nat.add_assoc] using h.weight_le
    nodup := hlive.nodup_iff.mpr h.nodup
    mem_iff := fun s => hlive.mem_iff.trans (h.mem_iff s)
    unused := fun s hs => by
      rw [deepen_getD_of_not_mem fun hmem => (h.used_of_mem hmem).ne' hs, h.unused s hs]
    full := fun x hx => by
      rcases hnodes hx with rfl | hx
      · exact (h.full a (by simp)).merge (h.full b (by simp)) fun s => h.deepen_merged
      · exact (h.full x (by simp [hx])).congr fun s => h.deepen_rest hx
    depth := fun x hx => by
      rcases hnodes hx with rfl | hx
      · exact DepthBound.merge h.sorted (h.depth a (by simp)) (h.depth b (by simp)) (fun s => h.deepen_merged)
          fun y => hnodes
      · obtain ⟨d, hd, hw, hothers⟩ := h.depth x (by simp [hx])
        refine ⟨d, fun s hs => h.deepen_rest hx hs ▸ hd s hs, hw, fun y hy => ?_⟩
        rcases hnodes hy with rfl | hy
        · exact (hothers a (by simp)).trans (Nat.le_add_right _ _)
        · exact hothers y (by simp [hy]) }

end Merge

/-- The loop ends with one node, of which the lengths are the depths (R202). -/
theorem LoopInv.exists_root {f : List ℕ} (k : ℕ) {nodes : List Node} {len : List ℕ} (h : LoopInv f nodes len)
    (hne : nodes ≠ []) (hk : nodes.length ≤ k + 1) : ∃ root, LoopInv f [root] (huffmanLoop k nodes len) := by
  induction k generalizing nodes len with
  | zero =>
    obtain ⟨root, rfl⟩ := List.length_eq_one_iff.mp (le_antisymm hk (List.length_pos_iff.mpr hne))
    exact ⟨root, h⟩
  | succ k ih =>
    match nodes with
    | [] => exact absurd rfl hne
    | [root] => exact ⟨root, h⟩
    | a :: b :: rest =>
      rw [List.length_cons, List.length_cons] at hk
      have hlength := List.orderedInsert_length (fun x y => nodeLe x y = true) rest (mergeNodes a b)
      exact ih h.merge (List.length_pos_iff.mp (by omega)) (by omega)

/-! ## The leaves -/

theorem mem_leaves {f : List ℕ} {x : Node} : x ∈ leaves f ↔ ∃ s, 0 < f.getD s 0 ∧ x = ⟨f.getD s 0, s, [s]⟩ := by
  constructor
  · intro hx
    obtain ⟨⟨w, s⟩, hp, rfl⟩ := List.mem_map.mp hx
    obtain ⟨hp, hw⟩ := List.mem_filter.mp hp
    have hs : f[s]? = some w := List.mem_zipIdx_iff_getElem?.mp hp
    exact ⟨s, by simpa [hs] using hw, by simp [hs]⟩
  · rintro ⟨s, hs, rfl⟩
    have hpair : (f.getD s 0, s) ∈ f.zipIdx := List.mem_zipIdx_iff_getElem?.mpr (getElem?_eq_some_getD hs)
    exact List.mem_map.mpr ⟨_, List.mem_filter.mpr ⟨hpair, by simpa using hs⟩, rfl⟩

/-- There is one leaf for each used symbol (R202). -/
theorem liveSymbols_leaves_nodup (f : List ℕ) : (liveSymbols (leaves f)).Nodup := by
  have hsymbols : liveSymbols (leaves f) = (f.zipIdx.filter fun p => decide (0 < p.1)).map Prod.snd := by
    rw [liveSymbols, leaves, List.flatMap_map, List.map_eq_flatMap]
  rw [hsymbols]
  exact zipIdx_filter_snd_nodup f _

/-- The symbols of the leaves are the used ones (R202). -/
theorem mem_liveSymbols_leaves {f : List ℕ} {s : ℕ} : s ∈ liveSymbols (leaves f) ↔ 0 < f.getD s 0 := by
  constructor
  · intro hs
    obtain ⟨x, hx, hsx⟩ := List.mem_flatMap.mp hs
    obtain ⟨t, ht, rfl⟩ := mem_leaves.mp hx
    rwa [List.mem_singleton.mp hsx]
  · intro hs
    exact List.mem_flatMap.mpr ⟨_, mem_leaves.mpr ⟨s, hs, rfl⟩, List.mem_singleton_self s⟩

/-- The loop starts with the leaves in order and no length given (R202). -/
theorem loopInv_leaves (f : List ℕ) :
    LoopInv f ((leaves f).insertionSort fun x y => nodeLe x y = true) (f.map fun _ => 0) := by
  have := nodeLe_trans
  have := nodeLe_total
  have hperm := List.perm_insertionSort (fun x y => nodeLe x y = true) (leaves f)
  have hlive := hperm.flatMap_right Node.symbols
  have hzero (s : ℕ) : (f.map fun _ => 0).getD s 0 = 0 :=
    Nat.le_zero.mp (getD_le_of_forall_le (by simp) s)
  have hleaf {x : Node} (hx : x ∈ (leaves f).insertionSort fun x y => nodeLe x y = true) :
      ∃ s, 0 < f.getD s 0 ∧ x = ⟨f.getD s 0, s, [s]⟩ := mem_leaves.mp (hperm.mem_iff.mp hx)
  have hweight {x : Node} (hx : x ∈ (leaves f).insertionSort fun x y => nodeLe x y = true) : 1 ≤ x.weight := by
    obtain ⟨s, hs, rfl⟩ := hleaf hx
    exact hs
  exact {
    length_eq := List.length_map _
    sorted := List.pairwise_insertionSort _ _
    weight_le := (hperm.map Node.weight).sum_eq ▸ leaves_weight_le f
    nodup := hlive.nodup_iff.mpr (liveSymbols_leaves_nodup f)
    mem_iff := fun s => hlive.mem_iff.trans mem_liveSymbols_leaves
    unused := fun s _ => hzero s
    full := fun x hx d hd => by
      obtain ⟨s, -, rfl⟩ := hleaf hx
      simp
    depth := fun x hx => ⟨0, fun s _ => (hzero s).le, hweight hx, fun y => hweight⟩ }

/-! ## The lengths of used symbols -/

section TwoUsed

variable {f : List ℕ} {s t : ℕ} (hs : 0 < f.getD s 0) (ht : 0 < f.getD t 0) (hst : s ≠ t)

include hs

/-- The lengths are the depths of the used symbols in one tree (R202). -/
theorem exists_loopInv_lengths : ∃ root, LoopInv f [root] (lengths f) := by
  have hperm := List.perm_insertionSort (fun x y => nodeLe x y = true) (leaves f)
  have hleaf := hperm.mem_iff.mpr (mem_leaves.mpr ⟨s, hs, rfl⟩)
  exact (loopInv_leaves f).exists_root _ (List.ne_nil_of_mem hleaf) (Nat.le_succ _)

/-- A code is no longer than the whole weight allows (R203 (c)). -/
theorem lengths_le {d : ℕ} (hsum : f.sum < Nat.fib (d + 3)) : ∀ l ∈ lengths f, l ≤ d := by
  obtain ⟨root, h⟩ := exists_loopInv_lengths hs
  obtain ⟨e, he, hweight, -⟩ := h.depth root (by simp)
  have hroot := h.weight_le
  rw [List.map_singleton, List.sum_singleton] at hroot
  have hde : e ≤ d := by
    by_contra hlt
    have hmono := Nat.fib_mono (show d + 3 ≤ e + 2 by omega)
    omega
  intro l hl
  obtain ⟨u, hu, rfl⟩ := List.mem_iff_getElem.mp hl
  rw [← List.getD_eq_getElem _ 0 hu]
  rcases Nat.eq_zero_or_pos (f.getD u 0) with hzero | hpos
  · rw [h.unused u hzero]
    exact Nat.zero_le d
  · exact (he u ((h.mem_root u).mpr hpos)).trans hde

include ht hst

/-- With two used symbols, each has a code (R201, R202). -/
theorem lengths_getD_pos : 0 < (lengths f).getD s 0 := by
  obtain ⟨root, h⟩ := exists_loopInv_lengths hs
  obtain ⟨d, hd, -⟩ := h.depth root (by simp)
  have hsum := h.full root (by simp) d hd
  have hterms := ((List.perm_cons_erase ((h.mem_root s).mpr hs)).map fun u => 2 ^ (d - (lengths f).getD u 0)).sum_eq
  have hother : 2 ^ (d - (lengths f).getD t 0) ≤
      ((root.symbols.erase s).map fun u => 2 ^ (d - (lengths f).getD u 0)).sum :=
    List.le_sum_of_mem (List.mem_map_of_mem ((List.mem_erase_of_ne hst.symm).mpr ((h.mem_root t).mpr ht)))
  have hpos := Nat.two_pow_pos (d - (lengths f).getD t 0)
  rw [hsum, List.map_cons, List.sum_cons] at hterms
  by_contra hzero
  rw [Nat.eq_zero_of_not_pos hzero, Nat.sub_zero] at hterms
  omega

/-- A symbol has a code exactly if it is used (R202). -/
theorem lengths_getD_pos_iff (u : ℕ) : 0 < (lengths f).getD u 0 ↔ 0 < f.getD u 0 := by
  constructor
  · intro hlen
    obtain ⟨root, h⟩ := exists_loopInv_lengths hs
    by_contra hzero
    rw [h.unused u (Nat.eq_zero_of_not_pos hzero)] at hlen
    exact hlen.false
  · intro hu
    by_cases hus : u = s
    · exact lengths_getD_pos hu ht (hus ▸ hst)
    · exact lengths_getD_pos hu hs hus

/-- The lengths satisfy Kraft equality (R203 (a)). -/
theorem kraftSum_lengths (hle : ∀ l ∈ lengths f, l ≤ 31) : kraftSum (lengths f) = 2 ^ 31 := by
  obtain ⟨root, h⟩ := exists_loopInv_lengths hs
  have hused {p : ℕ × ℕ} (hp : p ∈ usedSymbols (lengths f)) : p.1 = (lengths f).getD p.2 0 := by
    obtain ⟨hl, -⟩ := mem_usedSymbols.mp hp
    simp [hl]
  have hnodup : ((usedSymbols (lengths f)).map Prod.snd).Nodup := usedSymbols_snd_nodup _
  have hperm : ((usedSymbols (lengths f)).map Prod.snd).Perm root.symbols := by
    refine (List.perm_ext_iff_of_nodup hnodup (h.nodup.sublist (List.sublist_append_left _ _))).mpr fun u => ?_
    rw [h.mem_root, ← lengths_getD_pos_iff hs ht hst u]
    exact mem_map_snd_usedSymbols
  calc kraftSum (lengths f)
      = ((usedSymbols (lengths f)).map fun p => 2 ^ (31 - p.1)).sum := kraftSum_eq_sum_usedSymbols _
    _ = (((usedSymbols (lengths f)).map Prod.snd).map fun u => 2 ^ (31 - (lengths f).getD u 0)).sum := by
        rw [List.map_map]
        exact congrArg List.sum (List.map_congr_left fun p hp => by rw [hused hp]; rfl)
    _ = (root.symbols.map fun u => 2 ^ (31 - (lengths f).getD u 0)).sum := (hperm.map _).sum_eq
    _ = 2 ^ 31 := h.full root (by simp) 31 fun u _ => getD_le_of_forall_le hle u

end TwoUsed

/-! ## The table of a block -/

/-- The symbol of an item is used (R201). -/
theorem freq_itemSymbol_pos {items : List Item} {x : Item} (hx : x ∈ items) (hlt : itemSymbol x < 256) :
    0 < (freq items).getD (itemSymbol x) 0 := by
  rw [freq_getD hlt]
  exact List.countP_pos_iff.mpr ⟨x, hx, beq_self_eq_true _⟩

/-- EOB is used (R201). -/
theorem freq_eob_pos (items : List Item) : 0 < (freq items).getD eob 0 := by
  rw [freq_getD_eob]
  exact Nat.one_pos

/-- The items of a block stand for its ranks (R180, R182). -/
theorem unrle_transform (block : List Byte) : unrle (transform block).2 = mtf (bwt block).1 := unrle_rleFrom 0 _

/-- A block that is not empty has an item (R201). -/
theorem exists_mem_transform {block : List Byte} (hne : block ≠ []) : ∃ x, x ∈ (transform block).2 := by
  refine List.exists_mem_of_ne_nil _ fun hnil => hne ?_
  have hranks := unrle_transform block
  rw [hnil, unrle_nil, eq_comm] at hranks
  rw [← List.length_eq_zero_iff, ← bwt_length, ← mtf_length, hranks, List.length_nil]

/-- The code lengths in a block's table (R215). -/
def blockLengths (block : List Byte) : List ℕ := lengths (freq (transform block).2)

@[simp] theorem blockLengths_length (block : List Byte) : (blockLengths block).length = 257 := by
  simp [blockLengths]

/-- The whole weight is below `F(24)`, so no code is longer than 21 bits (R203 (c)). -/
theorem blockLengths_le {block : List Byte} (hlen : block.length ≤ 32768) :
    ∀ l ∈ blockLengths block, l ≤ 21 := by
  have hfib : Nat.fib (21 + 3) = 46368 := by decide
  have hcount := transform_items_length_le block
  refine lengths_le (s := eob) (freq_eob_pos _) ?_
  rw [freq_sum (transform_itemSymbol_lt block), hfib]
  omega

section Block

variable {block : List Byte} (hne : block ≠ [])

include hne

/-- Exactly the used symbols of a block have codes, those of its items and EOB (R201, R202). -/
theorem blockLengths_pos_iff (u : ℕ) :
    0 < (blockLengths block).getD u 0 ↔ 0 < (freq (transform block).2).getD u 0 := by
  obtain ⟨x, hx⟩ := exists_mem_transform hne
  have hlt := transform_itemSymbol_lt block x hx
  exact lengths_getD_pos_iff (freq_itemSymbol_pos hx hlt) (t := eob) (freq_eob_pos _) hlt.ne u

theorem blockLengths_item_pos {x : Item} (hx : x ∈ (transform block).2) :
    0 < (blockLengths block).getD (itemSymbol x) 0 :=
  (blockLengths_pos_iff hne _).mpr (freq_itemSymbol_pos hx (transform_itemSymbol_lt block x hx))

theorem blockLengths_eob_pos : 0 < (blockLengths block).getD eob 0 :=
  (blockLengths_pos_iff hne eob).mpr (freq_eob_pos _)

theorem kraftSum_blockLengths (hlen : block.length ≤ 32768) :
    kraftSum (blockLengths block) = 2 ^ 31 := by
  obtain ⟨x, hx⟩ := exists_mem_transform hne
  have hlt := transform_itemSymbol_lt block x hx
  exact kraftSum_lengths (freq_itemSymbol_pos hx hlt) (t := eob) (freq_eob_pos _) hlt.ne
    fun l hl => (blockLengths_le hlen l hl).trans (by decide)

end Block

/-- Settles O52: the weight bounds the depth of the tree, EOB is used, and a full tree satisfies Kraft equality. -/
theorem huffmanTableIsValid : Obligations.HuffmanTableIsValid := by
  refine fun block hne hlen => ⟨blockLengths_le hlen, ?_⟩
  rw [tableOk, Bool.and_eq_true, decide_eq_true_iff, decide_eq_true_iff]
  exact ⟨(blockLengths_eob_pos hne).ne', kraftSum_blockLengths hne hlen⟩

end Sys2Proof.Machine

/-! PROOFS of the family of 43_entropy.md, third part: the size of a payload, and what decoding it gives (spec R205,
R206, R215 to R222). -/

namespace Sys2Proof.Machine

/-! ## The size of a payload -/

theorem transform_itemInRange (block : List Byte) : ∀ x ∈ (transform block).2, itemInRange x :=
  itemInRange_rleFrom (mtf_lt _) 0

/-- An item takes its symbol's code, and a run eight bits more (R215). -/
theorem itemBits_length (len : List ℕ) {x : Item} (hx : itemInRange x) :
    (itemBits (codes len) x).length = len.getD (itemSymbol x) 0 + if itemSymbol x == 0 then 8 else 0 := by
  cases x with
  | lit r =>
    have hr : r ≠ 0 := Nat.one_le_iff_ne_zero.mp hx.1
    simp [itemBits, itemSymbol, hr]
  | run c => simp [itemBits, itemSymbol, zrun]

/-- The items of a block take their codes and eight bits for each run (R216). -/
theorem itemsBits_length (len : List ℕ) {items : List Item} (hitems : ∀ x ∈ items, itemInRange x) :
    (items.flatMap (itemBits (codes len))).length =
      (items.map fun x => len.getD (itemSymbol x) 0).sum + 8 * items.countP fun x => itemSymbol x == 0 := by
  induction items with
  | nil => rfl
  | cons x items ih =>
    obtain ⟨hx, hitems⟩ := List.forall_mem_cons.mp hitems
    rw [List.flatMap_cons, List.length_append, itemBits_length len hx, ih hitems, List.map_cons, List.sum_cons,
      List.countP_cons, Nat.mul_add, mul_ite, mul_one, mul_zero]
    omega

theorem codeCost_eq_zipWith_sum {f len : List ℕ} (hlen : len.length = f.length) :
    codeCost f len = (List.zipWith (fun count l => count * l) f len).sum := by
  have hmap : List.zipWith (fun count l => count * l) f len =
      (List.range f.length).map fun s => f.getD s 0 * len.getD s 0 := by
    refine List.ext_getElem (by simp [hlen]) fun s hs _ => ?_
    have hf : s < f.length := by simpa [hlen] using hs
    simp [hf, hlen]
  rw [hmap]
  rfl

/-- The fields of a payload, in order (R215). -/
theorem payloadBits_eq (block : List Byte) :
    payloadBits block = bitsOf (transform block).1 16 ++ (tableBits (blockLengths block) ++
      ((transform block).2.flatMap (itemBits (codes (blockLengths block))) ++
        symbolBits (codes (blockLengths block)) eob)) := by
  simp [payloadBits, put, blockLengths]

/-- The encoded bits of a block: ORIGIN and the table, the codes, and eight bits for each run (R216). -/
theorem payloadBits_length (block : List Byte) :
    (payloadBits block).length = 1301 + codeCost (freq (transform block).2) (blockLengths block) +
      8 * (freq (transform block).2).getD 0 0 := by
  have hitems := itemsBits_length (blockLengths block) (transform_itemInRange block)
  rw [codeCost_freq (transform_itemSymbol_lt block), freq_getD (by decide), payloadBits_eq]
  simp only [List.length_append, bitsOf_length, tableBits_length, blockLengths_length, symbolBits_length, hitems]
  omega

/-- A block that is not empty has the codes of an item and of EOB (R216). -/
theorem le_payloadBits_length {block : List Byte} (hne : block ≠ []) : 1303 ≤ (payloadBits block).length := by
  obtain ⟨x, hx⟩ := exists_mem_transform hne
  have hitem := blockLengths_item_pos hne hx
  have heob := blockLengths_eob_pos hne
  have hcost := List.le_sum_of_mem
    (List.mem_map_of_mem (f := fun x => (blockLengths block).getD (itemSymbol x) 0) hx)
  rw [payloadBits_length, codeCost_freq (transform_itemSymbol_lt block)]
  omega

/-- Settles O56: the bits of a payload are counted by the cost of its code, and the bytes are an eighth of them. -/
theorem payloadSizeBounds : Obligations.PayloadSizeBounds := by
  intro block hne _
  have hleast := le_payloadBits_length hne
  have hmost := payloadBits_length_le block
  have hbytes : 8 * (encodePayload block).length = (payloadBits block).length + padding (payloadBits block).length :=
    eight_mul_flush_length _
  have hpadding := padding_le (payloadBits block).length
  refine ⟨?_, hleast, hmost, by omega, by omega, encodePayload_length_le block⟩
  rw [payloadBits_length, blockLengths, codeCost_eq_zipWith_sum (lengths_length _)]

/-! ## Decoding -/

/-- Settles O57: the ranks decoded are as many as announced, and the inverse transform keeps their number. -/
theorem decodedLengthIsAnnounced : Obligations.DecodedLengthIsAnnounced := fun _ _ _ h => decodePayload_length h

/-- GetTable reads a valid table back (R205, R206). -/
theorem getTable_tableBits {len : List ℕ} (hlength : len.length = eob + 1) (hlen : ∀ l ∈ len, l ≤ 31)
    (hok : tableOk len = true) (rest : Bits) : getTable (tableBits len ++ rest) = .ok (len, rest) := by
  have hread := getEach_flatMap_bitsOf (fields := len.map fun l => (l, 5)) (fun p hp => by
    obtain ⟨l, hl, rfl⟩ := List.mem_map.mp hp
    exact Nat.lt_succ_of_le (hlen l hl)) rest
  have hwidths : (len.map fun l => (l, 5)).map Prod.snd = List.replicate (eob + 1) 5 := by
    rw [List.map_map, ← hlength]
    exact List.map_const' ..
  have hvalues : (len.map fun l => (l, 5)).map Prod.fst = len := by
    rw [List.map_map]
    exact List.map_id len
  rw [List.flatMap_map, hwidths, hvalues] at hread
  rw [getTable, tableBits, hread]
  exact if_pos hok

section Complete

variable {len : List ℕ} (hlen : ∀ l ∈ len, l ≤ 31) (hkraft : kraftSum len = 2 ^ 31)

include hlen hkraft

/-- GetSymbol reads the bits of a used symbol (R221). -/
theorem getSymbol_symbolBits {s : ℕ} (hs : 0 < len.getD s 0) (rest : Bits) :
    getSymbol (codes len) (symbolBits (codes len) s ++ rest) = some (s, rest) := by
  obtain ⟨c, hc, rfl⟩ := exists_mem_codes hs
  rw [symbolBits_of_mem hc]
  exact getSymbol_bits hlen hkraft hc rest

/-- One turn of the decoding loop reads the bits of one item (R215, R220). -/
theorem decodeRanks_itemBits {x : Item} (hx : itemInRange x) (hcode : 0 < len.getD (itemSymbol x) 0) {k room : ℕ}
    (hroom : (itemRanks x).length ≤ room) {reader : Bits} :
    decodeRanks (codes len) (k + 1) room (itemBits (codes len) x ++ reader) =
      (decodeRanks (codes len) k (room - (itemRanks x).length) reader).map fun later =>
        (itemRanks x ++ later.1, later.2) := by
  cases x with
  | lit r =>
    obtain ⟨hpos, hlt⟩ := hx
    have hsymbol := getSymbol_symbolBits hlen hkraft hcode reader
    have heob : r ≠ eob := by
      rw [eob]
      omega
    have hzrun : r ≠ zrun := Nat.one_le_iff_ne_zero.mp hpos
    have hroom : ¬ room < 1 := not_lt.mpr hroom
    rw [itemSymbol] at hsymbol
    simp [itemBits, decodeRanks, hsymbol, heob, hzrun, hroom, itemRanks]
  | run c =>
    obtain ⟨hpos, hlt⟩ := hx
    have hsymbol := getSymbol_symbolBits hlen hkraft hcode (bitsOf (c - 1) 8 ++ reader)
    have hcount := get_bitsOf (c - 1) 8 reader (by omega)
    have hzrun : zrun ≠ eob := by decide
    have hroom : ¬ room < c := not_lt.mpr (by simpa [itemRanks] using hroom)
    rw [itemSymbol] at hsymbol
    simp [itemBits, decodeRanks, hsymbol, hcount, hzrun, hroom, itemRanks, Nat.sub_add_cancel hpos]

/-- The decoding loop reads the items up to EOB and gives their ranks (R220). The bound on the turns is not reached,
since every item takes a bit. -/
theorem decodeRanks_items (heob : 0 < len.getD eob 0) {items : List Item} (hitems : ∀ x ∈ items, itemInRange x)
    (hcodes : ∀ x ∈ items, 0 < len.getD (itemSymbol x) 0) (rest : Bits) {k : ℕ}
    (hk : (items.flatMap (itemBits (codes len)) ++ (symbolBits (codes len) eob ++ rest)).length < k) :
    decodeRanks (codes len) k (unrle items).length
      (items.flatMap (itemBits (codes len)) ++ (symbolBits (codes len) eob ++ rest)) = .ok (unrle items, rest) := by
  induction items generalizing k with
  | nil =>
    obtain ⟨k, rfl⟩ := Nat.exists_eq_succ_of_ne_zero (Nat.ne_zero_of_lt hk)
    have hsymbol := getSymbol_symbolBits hlen hkraft heob rest
    simp [decodeRanks, hsymbol]
  | cons x items ih =>
    obtain ⟨k, rfl⟩ := Nat.exists_eq_succ_of_ne_zero (Nat.ne_zero_of_lt hk)
    obtain ⟨hx, hitems⟩ := List.forall_mem_cons.mp hitems
    obtain ⟨hxcode, hcodes⟩ := List.forall_mem_cons.mp hcodes
    have hbits := itemBits_length len hx
    rw [List.flatMap_cons, List.append_assoc] at hk ⊢
    rw [List.length_append] at hk
    rw [unrle_cons, List.length_append, decodeRanks_itemBits hlen hkraft hx hxcode (Nat.le_add_right _ _),
      Nat.add_sub_cancel_left, ih hitems hcodes (by omega)]
    rfl

end Complete

/-- The padding of a payload passes the decoder's check (R153, R220). -/
theorem paddingOk_replicate {w : ℕ} (hw : w ≤ 7) : paddingOk (List.replicate w false) = true := by
  have hvalue : fromBits (List.replicate w false) = 0 := by
    rw [← bitsOf_zero, fromBits_bitsOf, Nat.zero_mod]
  rw [paddingOk, hvalue, remaining_replicate]
  simpa using Nat.lt_succ_of_le hw

/-- The inverse transform gives a block back from the ranks of its items (R182). -/
theorem untransform_transform (block : List Byte) :
    untransform (transform block).1 (unrle (transform block).2) = block := by
  rw [untransform, unrle_transform, moveToFrontInverse.1]
  exact ibwtInvertsBwt block

theorem unrle_transform_length (block : List Byte) : (unrle (transform block).2).length = block.length := by
  rw [← untransform_length (transform block).1, untransform_transform]

/-- The bits that the decoder reads, field by field (R153, R215). -/
theorem exists_unpack_encodePayload (block : List Byte) :
    ∃ w ≤ 7, unpack (encodePayload block) = bitsOf (transform block).1 16 ++ (tableBits (blockLengths block) ++
      ((transform block).2.flatMap (itemBits (codes (blockLengths block))) ++
        (symbolBits (codes (blockLengths block)) eob ++ List.replicate w false))) := by
  refine ⟨padding (payloadBits block).length, padding_le _, ?_⟩
  rw [encodePayload, unpack_flush]
  generalize padding (payloadBits block).length = w
  simp only [payloadBits_eq, List.append_assoc]

/-- Settles O58: each field is read back as it was written, and each stage of the transform is undone. -/
theorem decodeInvertsEncode : Obligations.DecodeInvertsEncode := by
  intro block hne hlen
  obtain ⟨w, hw, hreader⟩ := exists_unpack_encodePayload block
  have horigin : (transform block).1 < block.length := (bwtPermutesBlock block hne).2
  have hlengths : ∀ l ∈ blockLengths block, l ≤ 31 :=
    fun l hl => (blockLengths_le hlen l hl).trans (by decide)
  have htable := getTable_tableBits (by simp [eob]) hlengths (huffmanTableIsValid block hne hlen).2
  have hranks := decodeRanks_items hlengths (kraftSum_blockLengths hne hlen) (blockLengths_eob_pos hne)
    (transform_itemInRange block) (fun x hx => blockLengths_item_pos hne hx)
    (List.replicate w false) (Nat.lt_succ_self _)
  rw [unrle_transform_length] at hranks
  rw [decodePayload, hreader, get_bitsOf _ _ _ (by omega)]
  simp only [if_neg (not_le.mpr horigin), htable, hranks, paddingOk_replicate hw, if_true,
    untransform_transform]

end Sys2Proof.Machine

/-! PROOFS of the family of 44_compressor.md: what FEED and FINISH of a compressor session do (spec R243, R246), and
what a whole session emits, held, popped and retried or with room for all of it (spec R248, R249). -/

namespace Sys2Proof.Machine

/-! ## FEED and FINISH as one command -/

/-- FEED of an open COMP session runs CFeed (R126). -/
theorem exec_feed_compOpen {s : State} (hm : s.mode = .comp) (hf : s.fin = false) (he : s.err = false) (b : Byte) :
    exec (.feed b) s = .next (cFeed b s) := by
  have hopen := afterTerminalCheck_open s (feedBody b) (by simp [hm]) hf he
  have hbody : feedBody b s = cFeed b s := by simp only [feedBody, hm]
  exact congrArg _ (hopen.trans hbody)

/-- FINISH of a COMP session that was not finished runs CFinish (R130). -/
theorem exec_finish_compUnfinished {s : State} (hm : s.mode = .comp) (hf : s.fin = false) :
    exec .finish s = .next (cFinish s) := by
  simp [exec, execFinish, hm, hf]

/-- A command with something to push runs exactly where there is room for it (R70). -/
theorem not_holds_iff_roomFor {s : State} {out : List Byte} (hout : out ≠ []) :
    s.holds out.length = false ↔ roomFor s out.length :=
  (not_holds_iff s _).trans (or_iff_right (by simpa using hout))

theorem not_roomFor_of_holds {s : State} {out : List Byte} (hout : out ≠ []) (hh : s.holds out.length = true) :
    ¬ roomFor s out.length := by
  simp [← not_holds_iff_roomFor hout, hh]

theorem blockOutput_ne_nil (s : State) (b : Byte) : blockOutput s b ≠ [] :=
  List.append_ne_nil_of_right_ne_nil _ (blockRecord_ne_nil _)

theorem finishOutput_ne_nil (s : State) : finishOutput s ≠ [] := by
  simp [finishOutput, endMarker, endMagic]

/-- Settles O23: a block that stays open is the first outcome of CFeed. -/
theorem compFeedBuffersByte : Obligations.CompFeedBuffersByte := by
  intro s b hm hf he hlt
  rw [exec_feed_compOpen hm hf he]
  rcases cFeed_cases b s with ⟨-, h⟩ | ⟨hle, -⟩ | ⟨hle, -⟩
  · rw [h]
    rfl
  · exact absurd hlt (Nat.not_lt_of_le hle)
  · exact absurd hlt (Nat.not_lt_of_le hle)

/-- Settles O24: the two outcomes of CFeed for a completed block, a record being never empty. -/
theorem compFeedCutsBlock : Obligations.CompFeedCutsBlock := by
  intro s b hm hf he hle
  rw [exec_feed_compOpen hm hf he]
  have hne := blockOutput_ne_nil s b
  rcases cFeed_cases b s with ⟨hlt, -⟩ | ⟨-, hholds, h⟩ | ⟨-, hholds, h⟩
  · exact absurd hlt (Nat.not_lt_of_le hle)
  · rw [h]
    exact ⟨fun hroom => absurd hroom (not_roomFor_of_holds hne hholds), fun _ => rfl⟩
  · rw [h]
    exact ⟨fun _ => rfl, fun hfull => absurd ((not_holds_iff_roomFor hne).mp hholds) hfull⟩

/-- Settles O25: the three outcomes of CFinish, the end marker being always pushed. -/
theorem compFinishClosesStream : Obligations.CompFinishClosesStream := by
  intro s hm hf
  rw [exec_finish_compUnfinished hm hf]
  have hne := finishOutput_ne_nil s
  rcases cFinish_cases s with ⟨he, h⟩ | ⟨he, hholds, h⟩ | ⟨he, hholds, h⟩ <;> rw [h]
  · have herr : s.err ≠ false := by simp [he]
    refine ⟨fun _ => ?_, fun hopen => absurd hopen herr, fun hopen => absurd hopen herr⟩
    rw [raise_of_err (s := { s with fin := true }) he, if_neg (by simp [hm])]
    rfl
  · have herr : s.err ≠ true := by simp [he]
    exact ⟨fun hfailed => absurd hfailed herr,
      fun _ hroom => absurd hroom (not_roomFor_of_holds hne hholds), fun _ _ => rfl⟩
  · have herr : s.err ≠ true := by simp [he]
    exact ⟨fun hfailed => absurd hfailed herr, fun _ _ => rfl,
      fun _ hfull => absurd ((not_holds_iff_roomFor hne).mp hholds) hfull⟩

/-! ## A session that was finished -/

/-- After FINISH every command of the session but POP answers or raises an error, and does nothing else (R122, R130). -/
theorem exec_finished_cases {i : Instr} {s t : State} (hk : keepsSession i = true) (hpop : i ≠ .pop)
    (hf : s.fin = true) (ht : exec i s = .next t) :
    (∃ st d, t = s.respond st d) ∨ t = s.raise .invalidState .noDetail := by
  cases i with
  | nop => exact .inl ⟨_, _, exec_nop_eq ht⟩
  | feed b =>
    rcases exec_feed_cases ht with ⟨-, h⟩ | ⟨-, -, h⟩ | ⟨-, hopen, -⟩ | ⟨-, hopen, -⟩
    · exact .inl ⟨_, _, h⟩
    · exact .inr h
    · simp [hf] at hopen
    · simp [hf] at hopen
  | feede =>
    rcases exec_feede_cases ht with ⟨-, h⟩ | ⟨-, -, h⟩ | ⟨-, -, -, h⟩
    · exact .inl ⟨_, _, h⟩
    · exact .inr h
    · exact .inl ⟨_, _, h⟩
  | finish =>
    rcases exec_finish_cases ht with ⟨-, h⟩ | ⟨-, -, h⟩ | ⟨-, hopen, -⟩ | ⟨-, hopen, -⟩
    · exact .inl ⟨_, _, h⟩
    · exact .inr h
    · simp [hf] at hopen
    · simp [hf] at hopen
  | rdsr idx => exact .inl (exec_rdsr_cases ht)
  | pop => exact absurd rfl hpop
  | cinit _ | dinit | drop | reset => cases hk

/-- POP moves the front byte from the queue to the host (R69, R128). -/
theorem received_pop_append {s t : State} (ht : exec .pop s = .next t) : received .pop s ++ t.dout = s.dout := by
  rcases exec_pop_cases ht with ⟨hd, rfl⟩ | ⟨b, rest, hd, rfl⟩
  · rw [received_pop_nil s hd]
    rfl
  · rw [received_pop_cons s b rest hd, hd]
    rfl

/-- A finished session stays finished, and what the host receives comes off the queue (R69, R130). -/
theorem exec_finished {i : Instr} {s t : State} (hk : keepsSession i = true) (hf : s.fin = true)
    (ht : exec i s = .next t) : t.fin = true ∧ received i s ++ t.dout = s.dout := by
  by_cases hpop : i = .pop
  · subst hpop
    refine ⟨?_, received_pop_append ht⟩
    obtain ⟨rest, r, rfl⟩ := exec_pop_frame ht
    exact hf
  · rw [received_of_not_pop s hpop]
    rcases exec_finished_cases hk hpop hf ht with ⟨st, d, rfl⟩ | rfl <;> exact ⟨hf, rfl⟩

/-! ## Any run of a session -/

/-- A COMP session of class `cls`, open or finished, that has accepted `input`: `before` was queued when it began and
the host has received `sent` since. Open, it is at that point of its stream; finished, the whole stream is out
(R248, R249). -/
structure CompRun (cls : Byte) (before sent input : List Byte) (s : State) : Prop where
  isOpen : s.fin = false → CompStream cls before sent input s
  finished : s.fin = true → sent ++ s.dout = before ++ stream input cls

theorem CompStream.toRun {cls : Byte} {before sent input : List Byte} {s : State}
    (h : CompStream cls before sent input s) : CompRun cls before sent input s :=
  ⟨fun _ => h, fun hfin => by simp [h.history.fin] at hfin⟩

/-- Every command of the session extends the run by what it accepts and what the host receives. -/
theorem CompRun.step {cls : Byte} {before sent input : List Byte} {s t : State} {i : Instr}
    (h : CompRun cls before sent input s) (hk : keepsSession i = true) (ht : exec i s = .next t) :
    CompRun cls before (sent ++ received i s) (input ++ accepted i s) t := by
  cases hf : s.fin with
  | false =>
    obtain ⟨-, hstep, -⟩ := compressorStateIsItsHistory
    obtain ⟨hopen, hclosed⟩ := hstep i s t cls before sent input (h.isOpen hf) hk ht
    refine ⟨hopen, fun hfin => ?_⟩
    obtain ⟨rfl, -, -, hout, -⟩ := hclosed hfin
    rwa [received_of_not_pop s (by simp), accepted_of_not_feed s (by simp), List.append_nil, List.append_nil]
  | true =>
    obtain ⟨hfin, hqueue⟩ := exec_finished hk hf ht
    refine ⟨fun hopen => by simp [hfin] at hopen, fun _ => ?_⟩
    rw [List.append_assoc, hqueue, accepted_of_terminal i s (.inl hf), List.append_nil]
    exact h.finished hf

theorem CompRun.afterAll {cls : Byte} {before sent input : List Byte} {s : State} {run : List Instr}
    (h : CompRun cls before sent input s) (hrun : ∀ i ∈ run, keepsSession i = true) :
    CompRun cls before (sent ++ alongRun received run s) (input ++ alongRun accepted run s) (afterAll run s) := by
  induction run generalizing sent input s with
  | nil => simpa using h
  | cons i rest ih =>
    obtain ⟨hi, hrest⟩ := List.forall_mem_cons.mp hrun
    have hnext := ih (h.step hi (exec_eq_next_after i s)) hrest
    simpa only [alongRun_cons, afterAll_cons, List.append_assoc] using hnext

/-- CINIT of a supported class opens the empty session (R124). -/
theorem compStream_after_cinit {s : State} {cls : Byte} (hcls : cls.toNat ≤ s.cfg.maxClass) :
    CompStream cls s.dout [] [] (after (.cinit cls) s) :=
  compressorStateIsItsHistory.1 s _ cls hcls (exec_eq_next_after _ s)

/-! ## What is out before FINISH is the beginning of the stream -/

theorem fullBlocksPart_prefix_snoc (input : List Byte) (b : Byte) (cls : BitVec 8) :
    fullBlocksPart input cls <+: fullBlocksPart (input ++ [b]) cls := by
  have hmod : input.length % blockSize cls.toNat < blockSize cls.toNat := Nat.mod_lt _ (blockSize_pos _)
  rcases Nat.lt_or_eq_of_le (Nat.succ_le_of_lt hmod) with hlt | heq
  · rw [fullBlocksPart_snoc_of_lt input b cls hlt]
  · rw [fullBlocksPart_snoc_of_eq input b cls heq, List.append_assoc]
    exact List.prefix_append _ _

theorem fullBlocksPart_prefix_append (input more : List Byte) (cls : BitVec 8) :
    fullBlocksPart input cls <+: fullBlocksPart (input ++ more) cls := by
  induction more generalizing input with
  | nil => simp
  | cons b more ih =>
    rw [List.append_cons]
    exact (fullBlocksPart_prefix_snoc input b cls).trans (ih (input ++ [b]))

/-- The blocks of a part of the input are the beginning of the whole stream (R248). -/
theorem fullBlocksPart_prefix_stream {input whole : List Byte} (h : input <+: whole) (cls : BitVec 8) :
    fullBlocksPart input cls <+: stream whole cls := by
  obtain ⟨more, rfl⟩ := h
  refine (fullBlocksPart_prefix_append input more cls).trans ?_
  rw [stream_eq]
  exact List.prefix_append _ _

/-! ## A session with room for its stream

`start` is the state in which the session's CINIT was executed. -/

section Room

variable {cls : Byte} {start s : State} {sent input whole : List Byte}
  (h : CompStream cls start.dout sent input s) (hcfg : s.cfg = start.cfg)
  (hroom : roomFor start (stream whole cls).length)
include h hcfg hroom

/-- There is room for the next part of the stream (R70). -/
theorem CompStream.not_holds {out : List Byte} (hout : fullBlocksPart input cls ++ out <+: stream whole cls) :
    s.holds out.length = false := by
  refine (not_holds_iff s _).mpr (.inr fun cap hcap => ?_)
  have hfits : start.dout.length + (stream whole cls).length ≤ cap := hroom cap (hcfg ▸ hcap)
  have hlength := congrArg List.length h.output
  have hle := hout.length_le
  simp only [List.length_append] at hlength hle
  omega

/-- No FEED of the input is held (R243). -/
theorem CompStream.feed_of_room {b : Byte} (hb : input ++ [b] <+: whole) :
    CompStream cls start.dout sent (input ++ [b]) (after (.feed b) s) := by
  have hist := h.history
  have ht := exec_eq_next_after (.feed b) s
  have hnotHeld : lastStatus (after (.feed b) s) ≠ some .outputFull := by
    rw [hist.exec_feed ht]
    intro hheld
    obtain ⟨hle, hholds, -⟩ := cFeed_held hheld
    have hblock := fullBlocksPart_prefix_stream hb cls
    rw [← h.class_, hist.blockOutput_eq b (hist.full_of_le hle), h.class_] at hblock
    simp [h.not_holds hcfg hroom hblock] at hholds
  rw [← hist.accepted_feed hnotHeld]
  exact h.feed ht

/-- One FEED a byte makes the session accept the bytes (R248). -/
theorem CompStream.feeds_of_room {bytes : List Byte} (hbytes : input ++ bytes <+: whole) :
    CompStream cls start.dout sent (input ++ bytes) (afterAll (bytes.map .feed) s) ∧
      (afterAll (bytes.map .feed) s).cfg = start.cfg := by
  induction bytes generalizing input s with
  | nil => simpa using ⟨h, hcfg⟩
  | cons b rest ih =>
    rw [List.append_cons] at hbytes ⊢
    have hfed := h.feed_of_room hcfg hroom ((List.prefix_append _ rest).trans hbytes)
    exact ih hfed ((exec_cfg (exec_eq_next_after _ s)).trans hcfg) hbytes

/-- FINISH of the session is not held either (R246). -/
theorem CompStream.finish_of_room (hwhole : input = whole) :
    let t := after .finish s
    t.fin = true ∧ t.err = false ∧ lastStatus t = some .ok ∧ sent ++ t.dout = start.dout ++ stream whole cls := by
  have ht := exec_eq_next_after .finish s
  rcases h.finish ht with ⟨hopen, -⟩ | ⟨hfin, herr, hok, hout, -⟩
  · have hrest := h.not_holds hcfg hroom (out := finishOutput s)
      (by rw [← hwhole, ← h.class_, h.history.finishOutput_eq])
    rcases cFinish_cases s with ⟨he, -⟩ | ⟨-, hholds, -⟩ | ⟨-, -, heq⟩
    · simp [h.history.err] at he
    · simp [hrest] at hholds
    · rw [h.history.exec_finish ht, heq] at hopen
      simp at hopen
  · exact ⟨hfin, herr, hok, hwhole ▸ hout⟩

end Room

/-- Settles O59: the run keeps what CINIT establishes, command by command; and where there is room for the whole
stream there is room for each part of it. -/
theorem compressorEmitsStream : Obligations.CompressorEmitsStream := by
  refine ⟨fun s cls run hcls hrun => ?_, fun s cls input hcls hroom => ?_⟩
  · have hafter := (compStream_after_cinit hcls).toRun.afterAll hrun
    exact ⟨hafter.isOpen, hafter.finished⟩
  · have hcfg : (after (.cinit cls) s).cfg = s.cfg := exec_cfg (exec_eq_next_after _ s)
    have hfed {bytes : List Byte} (hbytes : bytes <+: input) :=
      (compStream_after_cinit hcls).feeds_of_room hcfg hroom hbytes
    refine ⟨fun k _ => (hfed (List.take_prefix k input)).1.output, ?_⟩
    obtain ⟨hstream, hcfg'⟩ := hfed (List.prefix_refl input)
    obtain ⟨hfin, herr, hok, hout⟩ := hstream.finish_of_room hcfg' hroom rfl
    simp only [List.cons_append, afterAll_cons, afterAll_append, afterAll_nil]
    exact ⟨hout, hfin, herr, hok⟩

end Sys2Proof.Machine

/-! PROOFS of the family of 45_decompressor.md, first part: what one FEED or FINISH of a decompressor session does,
field by field (spec R272 to R290). -/

namespace Sys2Proof.Machine

/-! ## FEED and FINISH as one command -/

/-- FEED of an open DECOMP session runs DFeed (R126). -/
theorem exec_feed_decompOpen {s : State} (hm : s.mode = .decomp) (hf : s.fin = false) (he : s.err = false)
    (b : Byte) : exec (.feed b) s = .next (dFeed b s) := by
  have hopen := afterTerminalCheck_open s (feedBody b) (by simp [hm]) hf he
  have hbody : feedBody b s = dFeed b s := by simp only [feedBody, hm]
  exact congrArg _ (hopen.trans hbody)

/-- FINISH of a DECOMP session that was not finished runs DFinish (R130). -/
theorem exec_finish_decompUnfinished {s : State} (hm : s.mode = .decomp) (hf : s.fin = false) :
    exec .finish s = .next (dFinish s) := by
  simp [exec, execFinish, hm, hf]

/-! ## An error on a gathered byte -/

/-- Error entry of an open session on the byte it has just gathered: every field written (R272, R343). -/
theorem gather_raise_eq {s : State} (hm : s.mode = .decomp) (he : s.err = false) (g : List Byte)
    (e : SessionError) (det : Detail) :
    (s.gather g).raise e det =
      { s with
        gbuf := g, totalin := s.totalin + 1
        err := true, errcode := e.status.code, errdet := det.code, pstate := .error
        rsp := some ⟨e.status, 0⟩ } := by
  rw [raise_of_not_err (s := s.gather g) he, if_pos (by exact hm)]
  rfl

/-- A malformed stream found on a gathered byte (R341, R343). -/
theorem gather_corrupt_eq {s : State} (hm : s.mode = .decomp) (he : s.err = false) (g : List Byte)
    (det : Detail) :
    (s.gather g).corrupt det =
      { s with
        gbuf := g, totalin := s.totalin + 1
        err := true, errcode := 2, errdet := det.code, pstate := .error
        rsp := some ⟨.corruptStream, 0⟩ } :=
  gather_raise_eq hm he g .corruptStream det

/-! ## DFeed by the field that the byte completes -/

section Fields

variable {s : State} (b : Byte)

theorem dFeed_done (hp : s.pstate = .done) : dFeed b s = dDone s := by
  simp [dFeed, hp]

theorem dFeed_streamHeader (hp : s.pstate = .expectStreamHeader) (hlen : s.gbuf.length = 4) :
    dFeed b s = dStreamHeader (s.gbuf ++ [b]) (s.gather (s.gbuf ++ [b])) := by
  simp [dFeed, hp, hlen]

theorem dFeed_magic (hp : s.pstate = .expectBlockHeader) (hlen : s.gbuf.length = 1) :
    dFeed b s = dMagic (s.gbuf ++ [b]) (s.gather (s.gbuf ++ [b])) := by
  simp [dFeed, hp, hlen]

theorem dFeed_lengths (hp : s.pstate = .expectBlockHeader) (hlen : s.gbuf.length = 6) :
    dFeed b s = dLengths (s.gbuf ++ [b]) (s.gather (s.gbuf ++ [b])) := by
  simp [dFeed, hp, hlen]

theorem dFeed_body (hp : s.pstate = .expectBlockBody) (hlen : s.gbuf.length + 1 = s.blkp.toNat + 4) :
    dFeed b s = dBody (s.gbuf ++ [b]) s := by
  simp [dFeed, hp, hlen]

theorem dFeed_footer (hp : s.pstate = .expectFooter) (hlen : s.gbuf.length = 11) :
    dFeed b s = dFooter (s.gbuf ++ [b]) (s.gather (s.gbuf ++ [b])) := by
  simp [dFeed, hp, hlen]

end Fields

/-- Settles O27: of the outcomes of DFeed only the last one completes no field. -/
theorem decompFeedGathersByte : Obligations.DecompFeedGathersByte := by
  intro s b hm hf he hfield
  rw [exec_feed_decompOpen hm hf he]
  rcases dFeed_cases b s with ⟨hp, -⟩ | ⟨hp, hlen, -⟩ | ⟨hp, hlen, -⟩ | ⟨hp, hlen, -⟩ | ⟨hp, hlen, -⟩ |
    ⟨hp, hlen, -⟩ | ⟨-, -, -, -, -, h⟩
  case inr.inr.inr.inr.inr.inr => exact congrArg _ h
  all_goals simp only [hp] at hfield <;> omega

/-- Settles O28: the three outcomes of DStreamHeader, the magic being the four bytes gathered before. -/
theorem streamHeaderChecked : Obligations.StreamHeaderChecked := by
  intro s b hm hf he hp hlen
  have hmagic : slice (s.gbuf ++ [b]) 0 4 = s.gbuf := by simp [slice, ← hlen]
  have hclass : (s.gbuf ++ [b]).getD 4 0 = b := by simp [← hlen]
  rw [exec_feed_decompOpen hm hf he, dFeed_streamHeader b hp hlen]
  have hcases := dStreamHeader_cases (s.gbuf ++ [b]) (s.gather (s.gbuf ++ [b]))
  rw [hmagic, hclass] at hcases
  simp only [classSupported, decide_eq_true_eq, decide_eq_false_iff_not] at hcases
  rcases hcases with ⟨hne, h⟩ | ⟨heq, hc, h⟩ | ⟨heq, hc, h⟩ <;> rw [h]
  · exact ⟨fun _ => congrArg _ (gather_corrupt_eq hm he _ _), fun heq => absurd heq hne,
      fun heq => absurd heq hne⟩
  · exact ⟨fun hne => absurd heq hne, fun _ hlt => absurd hc (Nat.not_le_of_lt hlt), fun _ _ => rfl⟩
  · exact ⟨fun hne => absurd heq hne, fun _ _ => congrArg _ (gather_raise_eq hm he _ _ _),
      fun _ hle => absurd hle hc⟩

/-- Settles O29: the four outcomes of DMagic, the two magics being different. -/
theorem blockMagicChecked : Obligations.BlockMagicChecked := by
  intro s b hm hf he hp hlen
  rw [exec_feed_decompOpen hm hf he, dFeed_magic b hp hlen]
  have hmagics : endMagic ≠ blockMagic := by decide
  rcases dMagic_cases (s.gbuf ++ [b]) (s.gather (s.gbuf ++ [b])) with ⟨hg, h⟩ | ⟨hg, hs, h⟩ | ⟨hg, hs, h⟩ |
    ⟨hend, hblock, h⟩ <;> rw [h]
  · have hne : s.gbuf ++ [b] ≠ blockMagic := hg ▸ hmagics
    exact ⟨fun _ => rfl, fun hb => absurd hb hne, fun hb => absurd hb hne, fun hn => absurd hg hn⟩
  · have hne : s.gbuf ++ [b] ≠ endMagic := hg ▸ hmagics.symm
    exact ⟨fun hb => absurd hb hne, fun _ _ => rfl, fun _ ht => absurd (hs.symm.trans ht) (by decide),
      fun _ hn => absurd hg hn⟩
  · have hne : s.gbuf ++ [b] ≠ endMagic := hg ▸ hmagics.symm
    exact ⟨fun hb => absurd hb hne, fun _ hff => absurd (hs.symm.trans hff) (by decide),
      fun _ _ => congrArg _ (gather_corrupt_eq hm he _ _), fun _ hn => absurd hg hn⟩
  · exact ⟨fun hb => absurd hb hend, fun hb => absurd hb hblock, fun hb => absurd hb hblock,
      fun _ _ => congrArg _ (gather_corrupt_eq hm he _ _)⟩

/-- Settles O30: the two outcomes of DLengths, with the big-endian fields of the header written out. -/
theorem blockLengthsChecked : Obligations.BlockLengthsChecked := by
  intro s b n1 n0 p2 p1 hm hf he hp hg n p bs
  rw [exec_feed_decompOpen hm hf he, dFeed_lengths b hp (by simp [hg])]
  have hn : fromBe (slice (s.gbuf ++ [b]) 2 4) = n := by
    simp [hg, slice, fromBe_cons, n]
    omega
  have hpay : fromBe (slice (s.gbuf ++ [b]) 4 7) = p := by
    simp [hg, slice, fromBe_cons, p]
    omega
  have hok := lengthsOk_iff bs n p
  rcases dLengths_cases (s.gbuf ++ [b]) (s.gather (s.gbuf ++ [b])) with ⟨hl, h⟩ | ⟨hl, h⟩ <;>
    rw [hn, hpay] at hl <;> rw [h]
  · rw [hn, hpay]
    exact ⟨fun _ => rfl, fun hbad => absurd (hok.mp hl) hbad⟩
  · exact ⟨fun hgood => absurd (hl.symm.trans (hok.mpr hgood)) (by decide),
      fun _ => congrArg _ (gather_corrupt_eq hm he _ _)⟩

/-- The two parts of a complete body: the payload and the CRC field (R280). -/
theorem checkBody_eq {s : State} {g : List Byte} (hlen : g.length = s.blkp.toNat + 4) :
    checkBody s g =
      if (crc32 (g.take s.blkp.toNat)).toNat = fromBe (g.drop s.blkp.toNat) then
        decodePayload (g.take s.blkp.toNat) s.blkn.toNat
      else .error .blockCrc := by
  have hcrc : slice g s.blkp.toNat (s.blkp.toNat + 4) = g.drop s.blkp.toNat :=
    List.take_of_length_le (by simp [hlen])
  have hpay : slice g 0 s.blkp.toNat = g.take s.blkp.toNat := rfl
  simp only [checkBody, hcrc, hpay, ite_not, ne_eq]

/-- Settles O31: the three outcomes of DBody; of the errors of CheckBody the CRC's is the first. -/
theorem blockBodyCheckedThenReleased : Obligations.BlockBodyCheckedThenReleased := by
  intro s b hm hf he hp hlen pay crc
  have hcheck : checkBody s (s.gbuf ++ [b]) =
      if (crc32 pay).toNat = crc then decodePayload pay s.blkn.toNat else .error .blockCrc :=
    checkBody_eq (by simpa using hlen)
  have herror {det : Detail} (hbad : checkBody s (s.gbuf ++ [b]) = .error det) :
      dBody (s.gbuf ++ [b]) s = (s.gather (s.gbuf ++ [b])).corrupt det := by simp [dBody, hbad]
  rw [exec_feed_decompOpen hm hf he, dFeed_body b hp hlen]
  refine ⟨fun hne => ?_, fun det heq hdet => ?_, fun block heq hblock hne hfull => ?_,
    fun block heq hblock hroom => ?_⟩
  · exact congrArg _ ((herror (hcheck.trans (if_neg hne))).trans (gather_corrupt_eq hm he _ _))
  · exact congrArg _ ((herror ((hcheck.trans (if_pos heq)).trans hdet)).trans (gather_corrupt_eq hm he _ _))
  · have hholds : s.holds block.length = true := by
      simpa using mt (not_holds_iff_roomFor hne).mp hfull
    simp only [dBody, (hcheck.trans (if_pos heq)).trans hblock, hholds, if_true]
    rfl
  · have hholds : s.holds block.length = false := (not_holds_iff s _).mpr (.inr hroom)
    simp only [dBody, (hcheck.trans (if_pos heq)).trans hblock, hholds]
    rfl

/-- Settles O32: the three outcomes of DFooter on the two fields of the footer. -/
theorem footerChecked : Obligations.FooterChecked := by
  intro s b hm hf he hp hlen crc total
  rw [exec_feed_decompOpen hm hf he, dFeed_footer b hp hlen]
  have htotal : slice (s.gbuf ++ [b]) 4 12 = (s.gbuf ++ [b]).drop 4 :=
    List.take_of_length_le (by simp [hlen])
  have hcases := dFooter_cases (s.gbuf ++ [b]) (s.gather (s.gbuf ++ [b]))
  rw [htotal] at hcases
  rcases hcases with ⟨hc, h⟩ | ⟨hc, ht, h⟩ | ⟨hc, ht, h⟩ <;> rw [h]
  · exact ⟨fun _ => congrArg _ (gather_corrupt_eq hm he _ _), fun heq => absurd heq hc, fun heq => absurd heq hc⟩
  · exact ⟨fun hne => absurd hc hne, fun _ _ => congrArg _ (gather_corrupt_eq hm he _ _), fun _ heq => absurd heq ht⟩
  · exact ⟨fun hne => absurd hc hne, fun _ hne => absurd ht hne, fun _ _ => rfl⟩

/-- Settles O33: in Done every byte goes to DDone, which leaves GBUF. -/
theorem trailingByteRefused : Obligations.TrailingByteRefused := by
  intro s b hm hf he hp
  rw [exec_feed_decompOpen hm hf he, dFeed_done b hp]
  exact congrArg _ (gather_corrupt_eq hm he s.gbuf .trailingData)

/-- Settles O34: the two outcomes of DFinish, the second on a session with and without an error. -/
theorem decompFinishNeedsDone : Obligations.DecompFinishNeedsDone := by
  intro s hm hf
  rw [exec_finish_decompUnfinished hm hf]
  rcases dFinish_cases s with ⟨hp, h⟩ | ⟨hp, h⟩ <;> rw [h]
  · exact ⟨fun _ => rfl, fun hn => absurd hp hn, fun hn => absurd hp hn⟩
  · refine ⟨fun hd => absurd hd hp, fun _ he => ?_, fun _ he => ?_⟩
    · rw [raise_of_not_err (s := { s with fin := true }) he, if_pos hm]
      rfl
    · rw [raise_of_err (s := { s with fin := true }) he, if_pos hm]
      rfl

end Sys2Proof.Machine

/-! PROOFS of the family of 45_decompressor.md, second part: the block CRC finds every record with one bit flipped
(spec R295, R320). -/

namespace Sys2Proof.Machine

/-! ## The checksum register keeps apart what differs in one byte -/

/-- A shift loses nothing: the polynomial is odd, so the lowest bit tells whether it was added (R317). -/
theorem crcShift_injective : Function.Injective crcShift := by
  have hlow (reg : BitVec 32) : (crcShift reg).getLsbD 0 = reg.getLsbD 31 := by
    rw [crcShift]
    split <;> simp_all [crcPoly]
  have hshift (reg : BitVec 32) : reg <<< 1 = crcShift reg ^^^ (if reg.getLsbD 31 then crcPoly else 0) := by
    rw [crcShift]
    split <;> simp
  intro x y h
  have htop : x.getLsbD 31 = y.getLsbD 31 := by rw [← hlow, ← hlow, h]
  have hrest : x <<< 1 = y <<< 1 := by rw [hshift, hshift, h, htop]
  refine BitVec.eq_of_getElem_eq fun i hi => ?_
  rcases Nat.lt_or_eq_of_le (Nat.le_of_lt_succ hi) with hlt | rfl
  · have hbit := congrArg (BitVec.getLsbD · (i + 1)) hrest
    simpa [show i + 1 < 32 by omega] using hbit
  · simpa using htop

theorem crcShifts_injective (k : Nat) : Function.Injective (crcShifts k) := by
  induction k with
  | zero => exact fun _ _ h => h
  | succ k ih => exact ih.comp crcShift_injective

/-- Two registers stay apart under the same byte (R317). -/
theorem crcStep_injective_reg (b : Byte) : Function.Injective (crcStep · b) := fun _ _ h =>
  (BitVec.xor_left_inj _).mp (crcShifts_injective 8 h)

/-- Two bytes take one register to two (R317). -/
theorem crcStep_injective_byte (reg : BitVec 32) : Function.Injective (crcStep reg) := by
  intro a b h
  have hshift : a.setWidth 32 <<< 24 = b.setWidth 32 <<< 24 :=
    (BitVec.xor_right_inj _).mp (crcShifts_injective 8 h)
  have hnat := congrArg BitVec.toNat hshift
  simp only [BitVec.toNat_shiftLeft, BitVec.toNat_setWidth, Nat.shiftLeft_eq] at hnat
  refine BitVec.eq_of_toNat_eq ?_
  have ha := a.isLt
  have hb := b.isLt
  omega

theorem crcSteps_injective (bytes : List Byte) : Function.Injective (crcSteps · bytes) := by
  induction bytes with
  | nil => exact fun _ _ h => h
  | cons b bytes ih => exact ih.comp (crcStep_injective_reg b)

/-- Sequences that differ in one byte have different checksums (R320). -/
theorem crc32_ne_of_byte_ne (before after : List Byte) {a b : Byte} (h : a ≠ b) :
    crc32 (before ++ a :: after) ≠ crc32 (before ++ b :: after) := by
  intro heq
  have hregs : crcSteps crcInit (before ++ a :: after) = crcSteps crcInit (before ++ b :: after) :=
    (BitVec.xor_left_inj _).mp heq
  rw [crcSteps_append, crcSteps_append] at hregs
  exact h (crcStep_injective_byte _ (crcSteps_injective after hregs))

/-! ## One bit flipped -/

/-- A flipped bit changes one byte of the sequence and leaves those before and after it. -/
theorem exists_flipBit {bytes : List Byte} {k : Nat} (hk : k < 8 * bytes.length) :
    ∃ before b b' after, b' ≠ b ∧ bytes = before ++ b :: after ∧ flipBit bytes k = before ++ b' :: after := by
  obtain ⟨before, b, after, hbytes, -, hmodify⟩ :=
    List.exists_of_modify (fun b => b ^^^ BitVec.ofNat 8 (2 ^ (k % 8))) (i := k / 8) (l := bytes) (by omega)
  refine ⟨before, b, _, after, fun heq => ?_, hbytes, hmodify⟩
  have hlt : 2 ^ (k % 8) < 2 ^ 8 := Nat.pow_lt_pow_right (by omega) (Nat.mod_lt k (by omega))
  have hzero := congrArg BitVec.toNat ((BitVec.xor_right_inj b).mp (heq.trans BitVec.xor_zero.symm))
  rw [BitVec.toNat_ofNat, Nat.mod_eq_of_lt hlt] at hzero
  exact absurd hzero (Nat.two_pow_pos _).ne'

theorem flipBit_ne {bytes : List Byte} {k : Nat} (hk : k < 8 * bytes.length) : flipBit bytes k ≠ bytes := by
  obtain ⟨before, b, b', after, hne, hbytes, hflip⟩ := exists_flipBit hk
  rw [hflip, hbytes]
  simpa using hne

@[simp] theorem flipBit_length (bytes : List Byte) (k : Nat) : (flipBit bytes k).length = bytes.length :=
  List.length_modify _ _ _

/-- A bit flipped in the first of two parts. -/
theorem flipBit_append_left {x : List Byte} {k : Nat} (hk : k < 8 * x.length) (y : List Byte) :
    flipBit (x ++ y) k = flipBit x k ++ y := by
  rw [← List.take_append_drop x.length (flipBit (x ++ y) k), flipBit, List.take_modify,
    List.drop_modify_of_lt _ _ _ _ (by omega), List.take_left, List.drop_left, flipBit]

/-- A bit flipped in the second of two parts. -/
theorem flipBit_append_right {x : List Byte} {k : Nat} (hk : 8 * x.length ≤ k) (y : List Byte) :
    flipBit (x ++ y) k = x ++ flipBit y (k - 8 * x.length) := by
  have hbyte : (k - 8 * x.length) / 8 = k / 8 - x.length := by omega
  have hbit : (k - 8 * x.length) % 8 = k % 8 := by omega
  rw [← List.take_append_drop x.length (flipBit (x ++ y) k), flipBit, List.take_modify,
    List.drop_modify_of_ge _ _ _ _ (by omega), List.take_left, List.drop_left,
    List.modify_eq_self (by omega), flipBit, hbyte, hbit]

/-- A sequence with one bit flipped has another checksum (R320). -/
theorem crc32_flipBit_ne {bytes : List Byte} {k : Nat} (hk : k < 8 * bytes.length) :
    crc32 (flipBit bytes k) ≠ crc32 bytes := by
  obtain ⟨before, b, b', after, hne, hbytes, hflip⟩ := exists_flipBit hk
  rw [hflip, hbytes]
  exact crc32_ne_of_byte_ne before after hne

/-- A byte string is determined by its length and its value (R8). -/
theorem eq_of_fromBe_eq {x y : List Byte} (hlen : x.length = y.length) (h : fromBe x = fromBe y) : x = y := by
  induction x generalizing y with
  | nil => exact (List.length_eq_zero_iff.mp hlen.symm).symm
  | cons a x ih =>
    obtain ⟨b, y, rfl⟩ := List.exists_cons_of_length_eq_add_one hlen.symm
    have hlen' : x.length = y.length := by simpa using hlen
    have hx : fromBe x < 256 ^ y.length := hlen' ▸ fromBe_lt x
    rw [fromBe_cons, fromBe_cons, hlen', mul_comm, mul_comm b.toNat] at h
    have hhead := congrArg (· / 256 ^ y.length) h
    have htail := congrArg (· % 256 ^ y.length) h
    simp only [Nat.mul_add_div (Nat.pow_pos (n := y.length) (show 0 < 256 by omega)), Nat.div_eq_of_lt hx,
      Nat.div_eq_of_lt (fromBe_lt y), Nat.add_zero] at hhead
    simp only [Nat.mul_add_mod, Nat.mod_eq_of_lt hx, Nat.mod_eq_of_lt (fromBe_lt y)] at htail
    rw [BitVec.eq_of_toNat_eq hhead, ih hlen' htail]

/-- The value of a 32-bit field (R8, R63). -/
theorem fromBe_beBytes_word (v : BitVec 32) : fromBe (beBytes 4 v.toNat) = v.toNat := by
  rw [fromBe_beBytes]
  exact Nat.mod_eq_of_lt v.isLt

/-- A 32-bit field with one bit flipped has another value (R320). -/
theorem fromBe_flipBit_ne (v : BitVec 32) {k : Nat} (hk : k < 32) :
    fromBe (flipBit (beBytes 4 v.toNat) k) ≠ v.toNat := fun heq =>
  flipBit_ne (by simpa using hk)
    (eq_of_fromBe_eq (by simp) (heq.trans (fromBe_beBytes_word v).symm) : _ = beBytes 4 v.toNat)

/-- A payload and its CRC field with one bit flipped: the checksum of the one is not the value of the other,
wherever the bit is (R295). -/
theorem crc32_take_flipBit_ne {pay : List Byte} {k : Nat} (hk : k < 8 * (pay.length + 4)) :
    (crc32 ((flipBit (pay ++ beBytes 4 (crc32 pay).toNat) k).take pay.length)).toNat ≠
      fromBe ((flipBit (pay ++ beBytes 4 (crc32 pay).toNat) k).drop pay.length) := by
  by_cases hpay : k < 8 * pay.length
  · rw [flipBit_append_left hpay, List.take_left' (flipBit_length _ _), List.drop_left' (flipBit_length _ _),
      fromBe_beBytes_word]
    exact fun heq => crc32_flipBit_ne hpay (BitVec.eq_of_toNat_eq heq)
  · rw [flipBit_append_right (Nat.le_of_not_lt hpay), List.take_left, List.drop_left]
    exact (fromBe_flipBit_ne _ (by omega)).symm

/-- Settles O35: the checksum of the payload received differs from the value of the field received, which is the
first check on a body. -/
theorem corruptedRecordDetected : Obligations.CorruptedRecordDetected := by
  intro s b pay k hm hf he hp hpay hk hbody
  have hlen : s.gbuf.length + 1 = s.blkp.toNat + 4 := by
    simpa [hpay] using congrArg List.length hbody
  obtain ⟨hcrc, -⟩ := blockBodyCheckedThenReleased s b hm hf he hp hlen
  refine hcrc ?_
  rw [hbody, ← hpay]
  exact crc32_take_flipBit_ne hk

end Sys2Proof.Machine

/-! PROOFS of the family of 45_decompressor.md, third part: a decompressor session that is fed a stream stands at one
point of it, and from there on the parser reads what the compressor wrote (spec R293, R294). -/

namespace Sys2Proof.Machine

/-! ## The blocks of an input -/

/-- The blocks of an input, one after the other, are the input (R240). -/
theorem flatten_blocksOf {bs : Nat} (hbs : 0 < bs) {k : Nat} {bytes : List Byte} (hk : bytes.length ≤ k) :
    (blocksOf k bs bytes).flatten = bytes := by
  induction k generalizing bytes with
  | zero => simp [List.length_eq_zero_iff.mp (Nat.le_zero.mp hk)]
  | succ k ih =>
    by_cases hnil : bytes = []
    · simp [hnil]
    · have hpos : 0 < bytes.length := List.length_pos_iff.mpr hnil
      rw [blocksOf_succ k bs hnil, List.flatten_cons, ih (by rw [List.length_drop]; omega),
        List.take_append_drop]

/-- Every block has at least a byte and at most the block size, and only the last one is short (R240). -/
theorem blocksOf_block {bs : Nat} (hbs : 0 < bs) {k : Nat} {bytes block : List Byte} {done todo : List (List Byte)}
    (h : blocksOf k bs bytes = done ++ block :: todo) :
    block ≠ [] ∧ block.length ≤ bs ∧ (block.length < bs → todo = []) := by
  induction k generalizing bytes done with
  | zero => cases bytes <;> simp [blocksOf] at h
  | succ k ih =>
    by_cases hnil : bytes = []
    · simp [hnil] at h
    · rw [blocksOf_succ k bs hnil] at h
      cases done with
      | nil =>
        obtain ⟨rfl, rfl⟩ := List.cons_eq_cons.mp h
        refine ⟨by simpa [hbs.ne'] using hnil, List.length_take_le _ _, fun hlt => ?_⟩
        rw [List.length_take] at hlt
        rw [List.drop_of_length_le (by omega), blocksOf_nil]
      | cons first done => exact ih (List.cons_eq_cons.mp h).2

/-! ## The parts of a stream -/

/-- What a record holds after its header: the payload and BLOCKCRC (R313). -/
def blockBody (block : List Byte) : List Byte :=
  encodePayload block ++ beBytes 4 (crc32 (encodePayload block)).toNat

/-- The header of a block's record (R312, R313). -/
def recordHeader (block : List Byte) : List Byte := blockHeader block.length (encodePayload block).length

theorem blockRecord_eq (block : List Byte) : blockRecord block = recordHeader block ++ blockBody block :=
  List.append_assoc _ _ _

/-- The footer of the stream of an input (R315). -/
def streamFooter (input : List Byte) : List Byte := footer (crc32 input) (BitVec.ofNat 64 input.length)

/-- The stream of an input from a record boundary on, where the records of `todo` are to come (R310). -/
def streamFrom (input : List Byte) (todo : List (List Byte)) : List Byte :=
  todo.flatMap blockRecord ++ (endMarker ++ streamFooter input)

theorem streamFrom_cons (input block : List Byte) (todo : List (List Byte)) :
    streamFrom input (block :: todo) = recordHeader block ++ (blockBody block ++ streamFrom input todo) := by
  simp only [streamFrom, List.flatMap_cons, blockRecord_eq, List.append_assoc]

theorem stream_eq_streamFrom (input : List Byte) (cls : Byte) :
    stream input cls =
      streamHeader cls ++ streamFrom input (blocksOf input.length (blockSize cls.toNat) input) := by
  simp only [stream, streamFrom, streamFooter, List.append_assoc]

@[simp] theorem recordHeader_length (block : List Byte) : (recordHeader block).length = 7 := blockHeader_length _ _

@[simp] theorem blockBody_length (block : List Byte) :
    (blockBody block).length = (encodePayload block).length + 4 := by
  simp [blockBody]

@[simp] theorem streamFooter_length (input : List Byte) : (streamFooter input).length = 12 := footer_length _ _

@[simp] theorem endMarker_length : endMarker.length = 2 := rfl

@[simp] theorem streamFrom_length (input : List Byte) (todo : List (List Byte)) :
    (streamFrom input todo).length = (todo.flatMap blockRecord).length + 14 := by
  simp [streamFrom]

/-! ## Where the parser stands in the stream -/

/-- The field that the parser of a session is collecting, of the stream of `input` in class `cls`: GBUF holds its
first bytes, `more` are the others, at least one. The blocks `done` have been released, those of `todo` not, and
`rest` is the stream after the last byte accepted (R270, R271). -/
inductive FieldAt (cls : Byte) (input : List Byte) (s : State) (rest : List Byte) :
    List (List Byte) → List (List Byte) → Prop
  | streamHeader {todo : List (List Byte)} (more : List Byte) (state : s.pstate = .expectStreamHeader)
      (gathered : s.gbuf ++ more = Machine.streamHeader cls) (unfinished : more ≠ [])
      (restEq : rest = more ++ streamFrom input todo) : FieldAt cls input s rest [] todo
  | blockHeader {done todo : List (List Byte)} {block : List Byte} (more : List Byte)
      (state : s.pstate = .expectBlockHeader) (class_ : s.cls = cls)
      (gathered : s.gbuf ++ more = recordHeader block) (unfinished : more ≠ [])
      (restEq : rest = more ++ (Machine.blockBody block ++ streamFrom input todo)) :
      FieldAt cls input s rest done (block :: todo)
  | blockBody {done todo : List (List Byte)} {block : List Byte} (more : List Byte)
      (state : s.pstate = .expectBlockBody) (class_ : s.cls = cls)
      (blkn : s.blkn.toNat = block.length) (blkp : s.blkp.toNat = (encodePayload block).length)
      (gathered : s.gbuf ++ more = Machine.blockBody block) (unfinished : more ≠ [])
      (restEq : rest = more ++ streamFrom input todo) : FieldAt cls input s rest done (block :: todo)
  | endMarker {done : List (List Byte)} (more : List Byte) (state : s.pstate = .expectBlockHeader)
      (gathered : s.gbuf ++ more = Machine.endMarker) (unfinished : more ≠ [])
      (restEq : rest = more ++ streamFooter input) : FieldAt cls input s rest done []
  | footer {done : List (List Byte)} (more : List Byte) (state : s.pstate = .expectFooter)
      (gathered : s.gbuf ++ more = streamFooter input) (unfinished : more ≠ [])
      (restEq : rest = more) : FieldAt cls input s rest done []
  | finished {done : List (List Byte)} (state : s.pstate = .done) (restEq : rest = []) :
      FieldAt cls input s rest done []

/-- At a record boundary the parser expects the next block's header, or the end marker after the last one. -/
theorem fieldAt_boundary {cls : Byte} {s : State} (state : s.pstate = .expectBlockHeader) (class_ : s.cls = cls)
    (gbuf : s.gbuf = []) (input : List Byte) (done todo : List (List Byte)) :
    FieldAt cls input s (streamFrom input todo) done todo := by
  cases todo with
  | nil => exact .endMarker endMarker state (by simp [gbuf]) (by decide) rfl
  | cons block todo =>
    exact .blockHeader (recordHeader block) state class_ (by simp [gbuf])
      (List.ne_nil_of_length_pos (by simp)) (streamFrom_cons input block todo)

/-- An open DECOMP session that is fed the stream of `input` in class `cls`: `before` was queued when it began, the
host has received `sent` since, the blocks `done` have been pushed and `rest` of the stream is to come (R294). -/
structure DecompStream (cls : Byte) (input before sent : List Byte) (done todo : List (List Byte)) (rest : List Byte)
    (s : State) : Prop where
  params : configOk s.cfg
  supported : cls.toNat ≤ s.cfg.maxClass
  mode : s.mode = .decomp
  fin : s.fin = false
  err : s.err = false
  blocks : blocksOf input.length (blockSize cls.toNat) input = done ++ todo
  /-- No block comes after a short one (R29). -/
  short : s.short = true → todo = []
  /-- CRCREG covers what has been pushed (R33). -/
  crc : s.crcreg = crcSteps crcInit done.flatten
  /-- TOTALOUT counts it (R34). -/
  total : s.totalout = BitVec.ofNat 64 done.flatten.length
  output : sent ++ s.dout = before ++ done.flatten
  field : FieldAt cls input s rest done todo

/-- The session that DINIT opens has the whole stream to come (R125). -/
theorem decompStream_dinit {s : State} {cls : Byte} (hcfg : configOk s.cfg) (hcls : cls.toNat ≤ s.cfg.maxClass)
    (input : List Byte) :
    DecompStream cls input s.dout [] [] (blocksOf input.length (blockSize cls.toNat) input) (stream input cls)
      (after .dinit s) := by
  rw [exec_dinit_eq (exec_eq_next_after .dinit s)]
  exact {
    params := hcfg, supported := hcls, mode := rfl, fin := rfl, err := rfl, blocks := rfl, short := nofun,
    crc := rfl, total := rfl, output := by simp
    field := .streamHeader (streamHeader cls) rfl rfl (by simp [streamHeader]) (stream_eq_streamFrom input cls) }

section Session

variable {cls : Byte} {input before sent : List Byte} {done todo : List (List Byte)} {rest : List Byte} {s : State}

/-! ## Commands that accept no byte -/

/-- A session that has accepted and pushed nothing more, after some bytes were received (R69). -/
theorem DecompStream.withPorts (h : DecompStream cls input before sent done todo rest s) {got queue : List Byte}
    (hd : s.dout = got ++ queue) (rsp : Option Response) :
    DecompStream cls input before (sent ++ got) done todo rest { s with dout := queue, rsp := rsp } := by
  have hout : (sent ++ got) ++ queue = before ++ done.flatten := by rw [← h.output, hd, List.append_assoc]
  have hfield : FieldAt cls input { s with dout := queue, rsp := rsp } rest done todo := by
    cases h.field with
    | streamHeader more hp hg hmore hrest => exact .streamHeader more hp hg hmore hrest
    | blockHeader more hp hc hg hmore hrest => exact .blockHeader more hp hc hg hmore hrest
    | blockBody more hp hc hn hl hg hmore hrest => exact .blockBody more hp hc hn hl hg hmore hrest
    | endMarker more hp hg hmore hrest => exact .endMarker more hp hg hmore hrest
    | footer more hp hg hmore hrest => exact .footer more hp hg hmore hrest
    | finished hp hrest => exact .finished hp hrest
  exact { h with output := hout, field := hfield }

/-- A response leaves the session (R94). -/
theorem DecompStream.respond (h : DecompStream cls input before sent done todo rest s) (st : Status)
    (d : BitVec 32) : DecompStream cls input before sent done todo rest (s.respond st d) := by
  have hports := h.withPorts (got := []) rfl (some ⟨st, d⟩)
  rwa [List.append_nil] at hports

/-- POP hands the front byte to the host (R69, R128). -/
theorem DecompStream.pop (h : DecompStream cls input before sent done todo rest s) :
    DecompStream cls input before (sent ++ received .pop s) done todo rest (after .pop s) := by
  rcases exec_pop_cases (exec_eq_next_after .pop s) with ⟨hd, ht⟩ | ⟨b, queue, hd, ht⟩ <;> rw [ht]
  · rw [received_pop_nil s hd, List.append_nil]
    exact h.respond _ _
  · rw [received_pop_cons s b queue hd]
    exact h.withPorts (got := [b]) hd _

/-! ## FEED of the next byte -/

/-- A FEED of the session runs DFeed (R126). -/
theorem DecompStream.after_feed (h : DecompStream cls input before sent done todo rest s) (b : Byte) :
    after (.feed b) s = dFeed b s :=
  after_of_exec (exec_feed_decompOpen h.mode h.fin h.err b)

/-- The block that is to come first: not empty, no longer than a block, and short only as the last one. -/
theorem DecompStream.block {block : List Byte} (h : DecompStream cls input before sent done (block :: todo) rest s) :
    block ≠ [] ∧ block.length ≤ blockSize cls.toNat ∧ (block.length < blockSize cls.toNat → todo = []) :=
  blocksOf_block (blockSize_pos _) h.blocks

/-- A block of a supported class has at most 32768 bytes (R5, R6). -/
theorem DecompStream.blockSize_le (h : DecompStream cls input before sent done todo rest s) :
    blockSize cls.toNat ≤ 32768 := by
  have hpow : 2 ^ cls.toNat ≤ 2 ^ 11 := Nat.pow_le_pow_right (by omega) (h.supported.trans h.params.1)
  rw [blockSize]
  omega

/-- The blocks pushed and those to come make up the input (R240). -/
theorem DecompStream.input_eq (h : DecompStream cls input before sent done todo rest s) :
    done.flatten ++ todo.flatten = input := by
  rw [← List.flatten_append, ← h.blocks, flatten_blocksOf (blockSize_pos _) le_rfl]

/-- The parser moves on and nothing is pushed: only the parser's registers are written (R272). -/
theorem DecompStream.advance (h : DecompStream cls input before sent done todo rest s) {t : State}
    (ht : t = { s with
      cls := t.cls, pstate := t.pstate, gbuf := t.gbuf, blkn := t.blkn, blkp := t.blkp, totalin := t.totalin,
      rsp := t.rsp })
    {rest' : List Byte} (field : FieldAt cls input t rest' done todo) :
    DecompStream cls input before sent done todo rest' t where
  params := by rw [ht]; exact h.params
  supported := by rw [ht]; exact h.supported
  mode := by rw [ht]; exact h.mode
  fin := by rw [ht]; exact h.fin
  err := by rw [ht]; exact h.err
  blocks := h.blocks
  short := by rw [ht]; exact h.short
  crc := by rw [ht]; exact h.crc
  total := by rw [ht]; exact h.total
  output := by rw [ht]; exact h.output
  field := field

end Session

end Sys2Proof.Machine

/-! PROOFS of the family of 45_decompressor.md, fourth part: one FEED moves a session on in its stream by one byte, a
run of commands by the bytes it accepts (spec R293, R294). -/

namespace Sys2Proof.Machine

/-! ## The fields of a record header -/

section RecordHeader

variable {block : List Byte} (hne : block ≠ []) (hle : block.length ≤ 32768)
include hle

theorem recordHeader_origLen : fromBe (slice (recordHeader block) 2 4) = block.length := by
  have hslice : slice (recordHeader block) 2 4 = beBytes 2 block.length := rfl
  rw [hslice, fromBe_beBytes]
  exact Nat.mod_eq_of_lt (by omega)

/-- PAYLEN fits its 24 bits (R216, R312). -/
theorem encodePayload_length_lt : (encodePayload block).length < 2 ^ 24 := by
  have hmax := encodePayload_length_le block
  rw [payMax] at hmax
  omega

theorem recordHeader_payLen : fromBe (slice (recordHeader block) 4 7) = (encodePayload block).length := by
  have hslice : slice (recordHeader block) 4 7 = beBytes 3 (encodePayload block).length := rfl
  rw [hslice, fromBe_beBytes]
  exact Nat.mod_eq_of_lt (encodePayload_length_lt hle)

include hne

/-- The parser accepts the lengths that the compressor writes (R216, R277). -/
theorem lengthsOk_block {bs : Nat} (hbs : block.length ≤ bs) :
    lengthsOk bs block.length (encodePayload block).length = true := by
  obtain ⟨-, -, -, hmin, -, hmax⟩ := payloadSizeBounds block hne hle
  have hpos := List.length_pos_iff.mpr hne
  rw [lengthsOk_iff, payMin, payMax]
  omega

end RecordHeader

section Session

variable {cls : Byte} {input before sent : List Byte} {done todo : List (List Byte)} {b : Byte} {rest : List Byte}
  {s : State}

/-! ## FEED of the next byte, field by field

`more` is what the field still lacks after the byte: with nothing lacking the field is checked, else the byte is only
gathered. -/

/-- The next byte of the stream is the next byte of the field that is being collected. -/
theorem exists_more {more tail : List Byte} (hmore : more ≠ []) (h : b :: rest = more ++ tail) :
    ∃ more', more = b :: more' ∧ rest = more' ++ tail := by
  obtain ⟨c, more', rfl⟩ := List.exists_cons_of_ne_nil hmore
  obtain ⟨rfl, hrest⟩ := List.cons_eq_cons.mp h
  exact ⟨more', rfl, hrest⟩

/-- In the stream header (R274). -/
theorem DecompStream.feed_streamHeader {more : List Byte}
    (h : DecompStream cls input before sent [] todo (b :: rest) s) (hp : s.pstate = .expectStreamHeader)
    (hg : s.gbuf ++ b :: more = streamHeader cls) (hrest : rest = more ++ streamFrom input todo) :
    DecompStream cls input before sent [] todo rest (after (.feed b) s) := by
  have hlen : s.gbuf.length + (more.length + 1) = 5 := by simpa using congrArg List.length hg
  by_cases hmore : more = []
  · subst hmore
    obtain ⟨hmagic, hlast⟩ := List.append_inj' (hg : s.gbuf ++ [b] = streamMagic ++ [cls]) rfl
    obtain rfl : b = cls := List.singleton_inj.mp hlast
    obtain ⟨-, -, hopen⟩ := streamHeaderChecked s b h.mode h.fin h.err hp (by simpa using hlen)
    rw [after_of_exec (hopen hmagic h.supported)]
    obtain rfl : rest = streamFrom input todo := hrest
    exact h.advance rfl (fieldAt_boundary (by rfl) (by rfl) (by rfl) input [] todo)
  · have hpos := List.length_pos_iff.mpr hmore
    rw [after_of_exec (decompFeedGathersByte s b h.mode h.fin h.err (by simp only [hp]; omega))]
    exact h.advance rfl (.streamHeader more hp (by simpa using hg) hmore hrest)

/-- Before a block that is still to come none was short (R29). -/
theorem DecompStream.not_short {block : List Byte}
    (h : DecompStream cls input before sent done (block :: todo) rest s) : s.short = false := by
  simpa using mt h.short (List.cons_ne_nil block todo)

/-- A byte that does not complete a block header is gathered, that of the magic included (R272, R275). -/
theorem DecompStream.after_feed_header_open {block more : List Byte}
    (h : DecompStream cls input before sent done (block :: todo) rest s) (hp : s.pstate = .expectBlockHeader)
    (hg : s.gbuf ++ b :: more = recordHeader block) (hmore : more ≠ []) :
    after (.feed b) s = { s with gbuf := s.gbuf ++ [b], totalin := s.totalin + 1, rsp := some ⟨.ok, 0⟩ } := by
  have hlen : s.gbuf.length + (more.length + 1) = 7 := by simpa using congrArg List.length hg
  have hpos := List.length_pos_iff.mpr hmore
  by_cases hmagic : s.gbuf.length = 1
  · obtain ⟨-, hblock, -, -⟩ := blockMagicChecked s b h.mode h.fin h.err hp hmagic
    have htake := congrArg (List.take 2) hg
    rw [List.append_cons, List.take_left' (by simp [hmagic])] at htake
    exact after_of_exec (hblock htake h.not_short)
  · exact after_of_exec (decompFeedGathersByte s b h.mode h.fin h.err (by simp only [hp]; omega))

/-- In a block header: the lengths that complete it are in range (R277). -/
theorem DecompStream.feed_blockHeader {block more : List Byte}
    (h : DecompStream cls input before sent done (block :: todo) (b :: rest) s) (hp : s.pstate = .expectBlockHeader)
    (hc : s.cls = cls) (hg : s.gbuf ++ b :: more = recordHeader block)
    (hrest : rest = more ++ (blockBody block ++ streamFrom input todo)) :
    DecompStream cls input before sent done (block :: todo) rest (after (.feed b) s) := by
  have hlen : s.gbuf.length + (more.length + 1) = 7 := by simpa using congrArg List.length hg
  by_cases hmore : more = []
  · subst hmore
    obtain ⟨hne, hbs, -⟩ := h.block
    have hle : block.length ≤ 32768 := hbs.trans h.blockSize_le
    have hok : lengthsOk s.bs block.length (encodePayload block).length = true :=
      lengthsOk_block hne hle (by rwa [State.bs, hc])
    rw [h.after_feed, dFeed_lengths b hp (by simpa using hlen), hg]
    rcases dLengths_cases (recordHeader block) (s.gather (recordHeader block)) with ⟨-, ht⟩ | ⟨hbad, -⟩
    · rw [ht, recordHeader_origLen hle, recordHeader_payLen hle]
      refine h.advance rfl (.blockBody (blockBody block) rfl hc ?_ ?_ rfl
        (List.ne_nil_of_length_pos (by simp)) hrest)
      · exact Nat.mod_eq_of_lt (by omega)
      · exact Nat.mod_eq_of_lt (encodePayload_length_lt hle)
    · rw [recordHeader_origLen hle, recordHeader_payLen hle] at hbad
      exact absurd (hok.symm.trans hbad) (by decide)
  · rw [h.after_feed_header_open hp hg hmore]
    exact h.advance rfl (.blockHeader more hp hc (by simpa using hg) hmore hrest)

/-- A block released is the next one pushed, and the parser stands at the record boundary after it (R280). -/
theorem DecompStream.release {block : List Byte} (h : DecompStream cls input before sent done (block :: todo) rest s)
    (hc : s.cls = cls) (hn : s.blkn.toNat = block.length) :
    DecompStream cls input before sent (done ++ [block]) todo (streamFrom input todo) (releaseBlock s block) := by
  obtain ⟨-, -, hlast⟩ := h.block
  have hflat : (done ++ [block]).flatten = done.flatten ++ block := by simp
  have hshort : (releaseBlock s block).short = decide (block.length < blockSize cls.toNat) := by
    simp [releaseBlock, h.not_short, hn, State.bs, hc]
  exact { h with
    blocks := by rw [h.blocks, List.append_assoc]; rfl
    short := fun hs => hlast (of_decide_eq_true (hshort.symm.trans hs))
    crc := by rw [hflat, crcSteps_append, ← h.crc]; rfl
    total := by rw [hflat, List.length_append, BitVec.ofNat_add, ← h.total]; rfl
    output := by rw [hflat, ← List.append_assoc, ← h.output, List.append_assoc]; rfl
    field := fieldAt_boundary (by rfl) (by exact hc) (by rfl) input _ todo }

/-- The CRC field of a record's body is that of its payload (R313). -/
theorem crc32_blockBody (block : List Byte) :
    (crc32 ((blockBody block).take (encodePayload block).length)).toNat =
      fromBe ((blockBody block).drop (encodePayload block).length) := by
  rw [blockBody, List.take_left, List.drop_left, fromBe_beBytes_word]

/-- In a block body: a complete one has the right CRC and decodes to the block, which is pushed unless the byte is
held (R222, R280). -/
theorem DecompStream.feed_blockBody {block more : List Byte}
    (h : DecompStream cls input before sent done (block :: todo) (b :: rest) s)
    (hheld : lastStatus (after (.feed b) s) ≠ some .outputFull) (hp : s.pstate = .expectBlockBody)
    (hc : s.cls = cls) (hn : s.blkn.toNat = block.length) (hl : s.blkp.toNat = (encodePayload block).length)
    (hg : s.gbuf ++ b :: more = blockBody block) (hrest : rest = more ++ streamFrom input todo) :
    ∃ done' todo', DecompStream cls input before sent done' todo' rest (after (.feed b) s) := by
  have hlen : s.gbuf.length + (more.length + 1) = s.blkp.toNat + 4 := by
    simpa [hl] using congrArg List.length hg
  by_cases hmore : more = []
  · subst hmore
    obtain rfl : rest = streamFrom input todo := hrest
    obtain ⟨hne, hbs, -⟩ := h.block
    obtain ⟨-, -, hhold, hrelease⟩ := blockBodyCheckedThenReleased s b h.mode h.fin h.err hp (by simpa using hlen)
    rw [hg, hl] at hhold hrelease
    have hdecode : decodePayload ((blockBody block).take (encodePayload block).length) s.blkn.toNat = .ok block := by
      rw [blockBody, List.take_left, hn]
      exact decodeInvertsEncode block hne (hbs.trans h.blockSize_le)
    by_cases hroom : roomFor s block.length
    · rw [after_of_exec (hrelease block (crc32_blockBody block) hdecode hroom)]
      exact ⟨_, _, h.release hc hn⟩
    · rw [after_of_exec (hhold block (crc32_blockBody block) hdecode hne hroom)] at hheld
      exact absurd rfl hheld
  · have hpos := List.length_pos_iff.mpr hmore
    rw [after_of_exec (decompFeedGathersByte s b h.mode h.fin h.err (by simp only [hp]; omega))]
    exact ⟨_, _, h.advance rfl (.blockBody more hp hc hn hl (by simpa using hg) hmore hrest)⟩

/-- In the end marker (R275). -/
theorem DecompStream.feed_endMarker {more : List Byte}
    (h : DecompStream cls input before sent done [] (b :: rest) s) (hp : s.pstate = .expectBlockHeader)
    (hg : s.gbuf ++ b :: more = endMarker) (hrest : rest = more ++ streamFooter input) :
    DecompStream cls input before sent done [] rest (after (.feed b) s) := by
  have hlen : s.gbuf.length + (more.length + 1) = 2 := by simpa using congrArg List.length hg
  by_cases hmore : more = []
  · subst hmore
    obtain ⟨hend, -⟩ := blockMagicChecked s b h.mode h.fin h.err hp (by simpa using hlen)
    rw [after_of_exec (hend hg)]
    exact h.advance rfl (.footer (streamFooter input) rfl rfl (List.ne_nil_of_length_pos (by simp)) hrest)
  · have hpos := List.length_pos_iff.mpr hmore
    rw [after_of_exec (decompFeedGathersByte s b h.mode h.fin h.err (by simp only [hp]; omega))]
    exact h.advance rfl (.endMarker more hp (by simpa using hg) hmore hrest)

/-- In the footer: the whole input has been pushed, so both its fields are right (R286). -/
theorem DecompStream.feed_footer (h : DecompStream cls input before sent done [] (b :: rest) s)
    (hp : s.pstate = .expectFooter) (hg : s.gbuf ++ b :: rest = streamFooter input) :
    DecompStream cls input before sent done [] rest (after (.feed b) s) := by
  have hlen : s.gbuf.length + (rest.length + 1) = 12 := by simpa using congrArg List.length hg
  by_cases hrest : rest = []
  · subst hrest
    obtain ⟨-, -, hdone⟩ := footerChecked s b h.mode h.fin h.err hp (by simpa using hlen)
    have hflat : done.flatten = input := by simpa using h.input_eq
    have hcrc : fromBe ((s.gbuf ++ [b]).take 4) = (s.crcreg ^^^ 0xFFFFFFFF).toNat := by
      rw [hg, h.crc, hflat]
      exact fromBe_beBytes_word (crc32 input)
    have htotal : fromBe ((s.gbuf ++ [b]).drop 4) = s.totalout.toNat := by
      rw [hg, h.total, hflat]
      exact (fromBe_beBytes 8 _).trans (Nat.mod_eq_of_lt (BitVec.isLt _))
    rw [after_of_exec (hdone hcrc htotal)]
    exact h.advance rfl (.finished rfl rfl)
  · have hpos := List.length_pos_iff.mpr hrest
    rw [after_of_exec (decompFeedGathersByte s b h.mode h.fin h.err (by simp only [hp]; omega))]
    exact h.advance rfl (.footer rest hp (by simpa using hg) hrest rfl)

/-- FEED of the next byte of the stream, unless it is held (R272). -/
theorem DecompStream.feed (h : DecompStream cls input before sent done todo (b :: rest) s)
    (hheld : lastStatus (after (.feed b) s) ≠ some .outputFull) :
    ∃ done' todo', DecompStream cls input before sent done' todo' rest (after (.feed b) s) := by
  cases h.field with
  | streamHeader more hp hg hmore hrest =>
    obtain ⟨more, rfl, hrest'⟩ := exists_more hmore hrest
    exact ⟨_, _, h.feed_streamHeader hp hg hrest'⟩
  | blockHeader more hp hc hg hmore hrest =>
    obtain ⟨more, rfl, hrest'⟩ := exists_more hmore hrest
    exact ⟨_, _, h.feed_blockHeader hp hc hg hrest'⟩
  | blockBody more hp hc hn hl hg hmore hrest =>
    obtain ⟨more, rfl, hrest'⟩ := exists_more hmore hrest
    exact h.feed_blockBody hheld hp hc hn hl hg hrest'
  | endMarker more hp hg hmore hrest =>
    obtain ⟨more, rfl, hrest'⟩ := exists_more hmore hrest
    exact ⟨_, _, h.feed_endMarker hp hg hrest'⟩
  | footer more hp hg hmore hrest =>
    subst hrest
    exact ⟨_, _, h.feed_footer hp hg⟩
  | finished hp hrest => cases hrest

/-! ## Any run of the session -/

/-- A held FEED leaves the session, whatever its byte (R70). -/
theorem DecompStream.feed_held (h : DecompStream cls input before sent done todo rest s) (b : Byte)
    (hheld : lastStatus (after (.feed b) s) = some .outputFull) :
    DecompStream cls input before sent done todo rest (after (.feed b) s) := by
  rw [h.after_feed] at hheld ⊢
  obtain ⟨-, -, block, -, -, ht⟩ := dFeed_held hheld
  rw [ht]
  exact h.respond _ _

/-- Every command that keeps a session and does not finish it: the session stands after what it has accepted of the
stream, and what the host receives counts as sent (R293). -/
theorem DecompStream.step {i : Instr} (hk : keepsSession i = true) (hi : i ≠ .finish)
    (h : DecompStream cls input before sent done todo (accepted i s ++ rest) s) :
    ∃ done' todo', DecompStream cls input before (sent ++ received i s) done' todo' rest (after i s) := by
  have ht := exec_eq_next_after i s
  have silent (hfeed : ∀ b, i ≠ .feed b) (hpop : i ≠ .pop) (hrsp : ∃ st d, after i s = s.respond st d) :
      ∃ done' todo', DecompStream cls input before (sent ++ received i s) done' todo' rest (after i s) := by
    obtain ⟨st, d, hrsp⟩ := hrsp
    rw [accepted_of_not_feed s hfeed] at h
    rw [received_of_not_pop s hpop, List.append_nil, hrsp]
    exact ⟨_, _, h.respond st d⟩
  cases i with
  | nop => exact silent (by simp) (by simp) ⟨_, _, exec_nop_eq ht⟩
  | feede =>
    rcases exec_feede_cases ht with ⟨-, hrsp⟩ | ⟨-, hfe, -⟩ | ⟨-, -, -, hrsp⟩
    · exact silent (by simp) (by simp) ⟨_, _, hrsp⟩
    · simp [h.fin, h.err] at hfe
    · exact silent (by simp) (by simp) ⟨_, _, hrsp⟩
  | rdsr idx => exact silent (by simp) (by simp) (exec_rdsr_cases ht)
  | pop =>
    rw [accepted_of_not_feed s (by simp)] at h
    exact ⟨_, _, h.pop⟩
  | feed b =>
    rw [received_of_not_pop s (by simp), List.append_nil]
    by_cases hheld : lastStatus (after (.feed b) s) = some .outputFull
    · rw [accepted_of_held _ s hheld] at h
      exact ⟨_, _, h.feed_held b hheld⟩
    · rw [accepted_feed_open b s (by simp [h.mode]) h.fin h.err hheld] at h
      exact h.feed hheld
  | finish => exact absurd rfl hi
  | cinit _ | dinit | drop | reset => cases hk

/-- A run that accepts the next bytes of the stream (R293). -/
theorem DecompStream.afterAll {run : List Instr} (hrun : ∀ i ∈ run, keepsSession i = true ∧ i ≠ .finish)
    (h : DecompStream cls input before sent done todo (alongRun accepted run s ++ rest) s) :
    ∃ done' todo', DecompStream cls input before (sent ++ alongRun received run s) done' todo' rest
      (afterAll run s) := by
  induction run generalizing sent done todo s with
  | nil => exact ⟨_, _, by simpa using h⟩
  | cons i run ih =>
    obtain ⟨⟨hk, hi⟩, hrun⟩ := List.forall_mem_cons.mp hrun
    rw [alongRun_cons, List.append_assoc] at h
    obtain ⟨_, _, hstep⟩ := h.step hk hi
    rw [alongRun_cons, ← List.append_assoc, afterAll_cons]
    exact ih hrun hstep

/-! ## What a session has pushed -/

theorem blockRecord_length (block : List Byte) : (blockRecord block).length = (encodePayload block).length + 11 :=
  recordOf_length _ _

/-- As long as the stream is not complete, the blocks pushed are those whose records lie whole within the `k` bytes
accepted (R294). -/
theorem DecompStream.records_accepted (h : DecompStream cls input before sent done todo rest s) (hrest : rest ≠ [])
    {k : Nat} (hk : k + rest.length = (stream input cls).length) :
    (done.flatMap blockRecord).length ≤ k - 5 ∧
      (todo ≠ [] → k - 5 < ((done ++ todo.take 1).flatMap blockRecord).length) := by
  rw [stream_eq_streamFrom, h.blocks, List.length_append, streamHeader_length, streamFrom_length,
    List.flatMap_append, List.length_append] at hk
  rw [List.flatMap_append, List.length_append]
  cases h.field with
  | streamHeader more hp hg hmore hr =>
    have hpos := List.length_pos_iff.mpr hmore
    have hlen := congrArg List.length hr
    simp only [List.length_append, streamFrom_length] at hlen
    refine ⟨Nat.zero_le _, fun htodo => ?_⟩
    obtain ⟨block, todo, rfl⟩ := List.exists_cons_of_ne_nil htodo
    have hrecord := blockRecord_length block
    simp only [List.flatMap_nil, List.take_succ_cons, List.take_zero, List.flatMap_singleton, List.length_nil] at hk ⊢
    omega
  | blockHeader more hp hc hg hmore hr =>
    have hpos := List.length_pos_iff.mpr hmore
    have hlen := congrArg List.length hr
    have hfield := congrArg List.length hg
    simp only [List.length_append, recordHeader_length, blockBody_length, streamFrom_length] at hlen hfield
    simp only [List.flatMap_cons, List.length_append, blockRecord_length] at hk
    refine ⟨by omega, fun _ => ?_⟩
    simp only [List.take_succ_cons, List.take_zero, List.flatMap_singleton, blockRecord_length]
    omega
  | blockBody more hp hc hn hl hg hmore hr =>
    have hpos := List.length_pos_iff.mpr hmore
    have hlen := congrArg List.length hr
    have hfield := congrArg List.length hg
    simp only [List.length_append, blockBody_length, streamFrom_length] at hlen hfield
    simp only [List.flatMap_cons, List.length_append, blockRecord_length] at hk
    refine ⟨by omega, fun _ => ?_⟩
    simp only [List.take_succ_cons, List.take_zero, List.flatMap_singleton, blockRecord_length]
    omega
  | endMarker more hp hg hmore hr =>
    have hlen := congrArg List.length hr
    have hfield := congrArg List.length hg
    simp only [List.length_append, endMarker_length, streamFooter_length] at hlen hfield
    refine ⟨?_, fun hnil => absurd rfl hnil⟩
    simp only [List.flatMap_nil, List.length_nil] at hk
    omega
  | footer more hp hg hmore hr =>
    have hfield := congrArg List.length hg
    simp only [List.length_append, streamFooter_length] at hfield
    refine ⟨?_, fun hnil => absurd rfl hnil⟩
    simp only [hr, List.flatMap_nil, List.length_nil] at hk
    omega
  | finished hp hr => exact absurd hr hrest

/-- The parser is in Done exactly at the end of the stream. -/
theorem FieldAt.done_iff (h : FieldAt cls input s rest done todo) : s.pstate = .done ↔ rest = [] := by
  cases h with
  | streamHeader more hp hg hmore hrest => simp [hp, hrest, hmore]
  | blockHeader more hp hc hg hmore hrest => simp [hp, hrest, hmore]
  | blockBody more hp hc hn hl hg hmore hrest => simp [hp, hrest, hmore]
  | endMarker more hp hg hmore hrest => simp [hp, hrest, hmore]
  | footer more hp hg hmore hrest => simp [hp, hrest, hmore]
  | finished hp hrest => simp [hp, hrest]

/-- At the end of the stream nothing is to come: every block has been pushed. -/
theorem DecompStream.flatten_done (h : DecompStream cls input before sent done todo [] s) : done.flatten = input := by
  have htodo : todo = [] := by
    cases h.field with
    | streamHeader more hp hg hmore hr => simp [hmore] at hr
    | blockHeader more hp hc hg hmore hr => simp [hmore] at hr
    | blockBody more hp hc hn hl hg hmore hr => simp [hmore] at hr
    | endMarker => rfl
    | footer => rfl
    | finished => rfl
  simpa [htodo] using h.input_eq

/-- FINISH of the session is OK at the end of the stream only (R290). -/
theorem DecompStream.finish (h : DecompStream cls input before sent done todo rest s) :
    lastStatus (after .finish s) = some (if rest = [] then .ok else .truncatedStream) := by
  obtain ⟨hdone, htruncated, -⟩ := decompFinishNeedsDone s h.mode h.fin
  by_cases hrest : rest = []
  · rw [after_of_exec (hdone (h.field.done_iff.mpr hrest)), if_pos hrest]
    rfl
  · rw [after_of_exec (htruncated (mt h.field.done_iff.mp hrest) h.err), if_neg hrest]
    rfl

/-- What a session has pushed of an incomplete stream: the blocks whose records lie whole within the `k` bytes
accepted (R294). -/
theorem DecompStream.pushed_blocks (h : DecompStream cls input before sent done todo rest s) (hrest : rest ≠ [])
    {k : Nat} (hk : k + rest.length = (stream input cls).length) :
    let blocks := blocksOf input.length (blockSize cls.toNat) input
    ∃ j, sent ++ s.dout = before ++ (blocks.take j).flatten ∧
      ((blocks.take j).flatMap blockRecord).length ≤ k - 5 ∧
      (j < blocks.length → k - 5 < ((blocks.take (j + 1)).flatMap blockRecord).length) := by
  intro blocks
  obtain ⟨hle, hlt⟩ := h.records_accepted hrest hk
  have hblocks : blocks = done ++ todo := h.blocks
  have htake : blocks.take done.length = done := by rw [hblocks, List.take_left]
  have htake' : blocks.take (done.length + 1) = done ++ todo.take 1 := by
    rw [hblocks, List.take_length_add_append]
  refine ⟨done.length, by rw [htake, h.output], by rwa [htake], fun hj => ?_⟩
  rw [htake']
  refine hlt fun htodo => ?_
  rw [hblocks, htodo, List.append_nil] at hj
  exact absurd hj (lt_irrefl _)

/-! ## A session with room for its input

`start` is the state in which the session's DINIT was executed. -/

/-- No FEED is held where there is room for the whole input (R70, R280). -/
theorem DecompStream.not_held_of_room {start : State}
    (h : DecompStream cls input start.dout [] done todo rest s) (hcfg : s.cfg = start.cfg)
    (hroom : roomFor start input.length) (b : Byte) : lastStatus (after (.feed b) s) ≠ some .outputFull := by
  intro hheld
  rw [h.after_feed] at hheld
  obtain ⟨hp, -, pushed, hcheck, hholds, -⟩ := dFeed_held hheld
  obtain ⟨-, cap, hcap, hlt⟩ := (holds_iff s _).mp hholds
  have hfits : start.dout.length + input.length ≤ cap := hroom cap (hcfg ▸ hcap)
  have hdout : s.dout = start.dout ++ done.flatten := h.output
  have hinput := congrArg List.length h.input_eq
  cases h.field with
  | blockBody more _ _ hn =>
    have hlen : pushed.length = s.blkn.toNat := by
      rw [checkBody] at hcheck
      split at hcheck
      · cases hcheck
      · exact decodePayload_length hcheck
    rw [hdout, hlen, hn, List.length_append] at hlt
    simp only [List.flatten_cons, List.length_append] at hinput
    omega
  | streamHeader more hp' => simp [hp] at hp'
  | blockHeader more hp' => simp [hp] at hp'
  | endMarker more hp' => simp [hp] at hp'
  | footer more hp' => simp [hp] at hp'
  | finished hp' => simp [hp] at hp'

/-- One FEED a byte makes the session accept the bytes, and the host receives none meanwhile (R294). -/
theorem DecompStream.feeds_of_room {start : State} {bytes : List Byte}
    (h : DecompStream cls input start.dout [] done todo (bytes ++ rest) s) (hcfg : s.cfg = start.cfg)
    (hroom : roomFor start input.length) :
    alongRun accepted (bytes.map .feed) s = bytes ∧
      ∃ done' todo', DecompStream cls input start.dout [] done' todo' rest (Machine.afterAll (bytes.map .feed) s) := by
  induction bytes generalizing done todo s with
  | nil => exact ⟨rfl, _, _, h⟩
  | cons b bytes ih =>
    have hheld := h.not_held_of_room hcfg hroom b
    obtain ⟨done', todo', hfed⟩ := h.feed hheld
    obtain ⟨haccepted, hrest⟩ := ih hfed ((exec_cfg (exec_eq_next_after _ s)).trans hcfg)
    rw [List.map_cons, alongRun_cons, afterAll_cons, haccepted,
      accepted_feed_open b s (by simp [h.mode]) h.fin h.err hheld]
    exact ⟨rfl, hrest⟩

end Session

/-- Settles O60: the run keeps the session at a point of the stream, and what it has pushed and what FINISH answers
depend on that point only; and where there is room for the input no FEED is held. -/
theorem decompressorInvertsStream : Obligations.DecompressorInvertsStream := by
  refine ⟨?_, ?_⟩
  · intro s cls input k run hcfg hcls _ hk hrun haccepted
    have hstart := decompStream_dinit hcfg hcls input
    rw [← List.take_append_drop k (stream input cls), ← haccepted] at hstart
    obtain ⟨done, todo, h⟩ := hstart.afterAll hrun
    refine ⟨h.err, fun hlt => ?_, fun heq => ?_⟩
    · have hrest : (stream input cls).drop k ≠ [] := by simpa using hlt
      have hlen : k + ((stream input cls).drop k).length = (stream input cls).length := by
        rw [List.length_drop]
        omega
      exact ⟨h.pushed_blocks hrest hlen, h.finish.trans (by rw [if_neg hrest])⟩
    · rw [List.drop_of_length_le heq.ge] at h
      exact ⟨h.output.trans (by rw [h.flatten_done]), h.field.done_iff.mpr rfl, h.finish⟩
  · intro s cls input k hcfg hcls hroom _
    have hstart := decompStream_dinit hcfg hcls input
    rw [← List.take_append_drop k (stream input cls)] at hstart
    obtain ⟨haccepted, done, todo, h⟩ := hstart.feeds_of_room (exec_cfg (exec_eq_next_after _ s)) hroom
    refine ⟨haccepted, fun heq => ?_⟩
    rw [List.drop_of_length_le heq.ge] at h
    exact h.output.trans (by rw [h.flatten_done])

end Sys2Proof.Machine

/-! PROOFS of the family of 46_framer.md: the CRC is affine over GF(2), and it finds every single flipped bit (spec
R317, R320). -/

namespace Sys2Proof.Machine

/-- The sum of two sums, part by part. -/
theorem xor_xor_xor_comm (a b c d : BitVec 32) : (a ^^^ b) ^^^ (c ^^^ d) = (a ^^^ c) ^^^ (b ^^^ d) := by ac_rfl

/-- What is added to both sides of a sum cancels. -/
theorem xor_xor_xor_cancel (a b m : BitVec 32) : (a ^^^ m) ^^^ (b ^^^ m) = a ^^^ b := by
  rw [xor_xor_xor_comm, BitVec.xor_self, BitVec.xor_zero]

/-- One shift is linear: the top bit of a sum, which decides whether the polynomial is added, is the sum of the top
bits (R317). -/
theorem crcShift_xor (r q : BitVec 32) : crcShift (r ^^^ q) = crcShift r ^^^ crcShift q := by
  simp only [crcShift, BitVec.getLsbD_xor, BitVec.shiftLeft_xor_distrib]
  cases r.getLsbD 31 <;> cases q.getLsbD 31 <;> simp only [Bool.xor_false, Bool.xor_true, Bool.not_false,
    Bool.not_true, Bool.false_eq_true, if_true, if_false]
  case false.true | true.false => ac_rfl
  case true.true => exact (xor_xor_xor_cancel _ _ _).symm

theorem crcShifts_xor (k : Nat) (r q : BitVec 32) : crcShifts k (r ^^^ q) = crcShifts k r ^^^ crcShifts k q := by
  induction k generalizing r q with
  | zero => rfl
  | succ k ih => simp only [crcShifts, crcShift_xor, ih]

/-- `CrcStep` is linear in the register and the byte together (R317). -/
theorem crcStep_xor (r q : BitVec 32) (a b : Byte) :
    crcStep (r ^^^ q) (a ^^^ b) = crcStep r a ^^^ crcStep q b := by
  rw [crcStep, crcStep, crcStep, ← crcShifts_xor, BitVec.setWidth_xor, BitVec.shiftLeft_xor_distrib,
    xor_xor_xor_comm]

/-- Over sequences of one length the register is linear (R320). -/
theorem crcSteps_zipWith_xor (r q : BitVec 32) {x y : List Byte} (hlen : x.length = y.length) :
    crcSteps (r ^^^ q) (List.zipWith (fun a b => a ^^^ b) x y) = crcSteps r x ^^^ crcSteps q y := by
  induction x generalizing r q y with
  | nil => simp [List.length_eq_zero_iff.mp hlen.symm]
  | cons a x ih =>
    obtain ⟨b, y, rfl⟩ := List.exists_cons_of_length_eq_add_one hlen.symm
    rw [List.zipWith_cons_cons, crcSteps_cons, crcSteps_cons, crcSteps_cons, crcStep_xor,
      ih _ _ (Nat.succ.inj hlen)]

/-- The CRC is affine over GF(2): in a sum of two checksums the initial values and the final inversions cancel
(R320). -/
theorem crc32_xor_crc32 {x y : List Byte} (hlen : x.length = y.length) :
    crc32 x ^^^ crc32 y = crcSteps 0 (List.zipWith (fun a b => a ^^^ b) x y) :=
  calc crc32 x ^^^ crc32 y
    _ = crcSteps crcInit x ^^^ crcSteps crcInit y := xor_xor_xor_cancel _ _ _
    _ = crcSteps (crcInit ^^^ crcInit) (List.zipWith (fun a b => a ^^^ b) x y) :=
      (crcSteps_zipWith_xor _ _ hlen).symm
    _ = crcSteps 0 (List.zipWith (fun a b => a ^^^ b) x y) := by rw [BitVec.xor_self]; rfl

/-- Settles O47: the register is linear, two bytes take it to two values, and a field is determined by its value. -/
theorem crcDetectsSingleBit : Obligations.CrcDetectsSingleBit :=
  ⟨fun _ _ => crc32_xor_crc32, fun _ _ => crc32_flipBit_ne, fun x _ => fromBe_flipBit_ne (crc32 x)⟩

end Sys2Proof.Machine

/-! PROOFS of the family of 47_arithmetic.md: the Kraft sum is where the last canonical code ends (spec R328). -/

namespace Sys2Proof.Machine

/-- The last code, scaled to words of 31 bits, ends at the Kraft sum: R328's `(c + 1) / 2^len` as a natural number. -/
theorem kraftSum_eq_of_getLast {len : List ℕ} {c : Code} (hlen : ∀ l ∈ len, l ≤ 31)
    (hc : (codes len).getLast? = some c) : kraftSum len = (c.code + 1) * 2 ^ (31 - c.len) :=
  ((tiles_codes hlen).stop_getLast hc).symm

/-- Settles O54: the words of 31 bits are `2^len` times the words that begin with the last code, so the Kraft sum
reaches their end exactly when the last code is the greatest of its length. -/
theorem kraftEqualityByLastCode : Obligations.KraftEqualityByLastCode := by
  intro len c hlen hc
  obtain ⟨hle, -⟩ := (tiles_codes hlen).bounds c (List.mem_of_getLast? hc)
  have hwords : 2 ^ 31 = 2 ^ c.len * 2 ^ (31 - c.len) := (pow_mul_pow_sub 2 hle).symm
  rw [kraftSum_eq_of_getLast hlen hc, hwords]
  exact Nat.mul_left_inj (Nat.two_pow_pos _).ne'

end Sys2Proof.Machine

/-! PROOFS of the family of 60_exceptions.md and 70_reset_and_hazards.md: with which statuses each command answers (spec
R348), and that every state has a next state (spec R356, R392). -/

namespace Sys2Proof.Machine

/-! ## The status of a response -/

/-- The last command has responded, with one of the statuses `allowed` (R94, R340). -/
def AnswersIn (t : State) (allowed : List Status) : Prop := ∃ st d, t.rsp = some ⟨st, d⟩ ∧ st ∈ allowed

section Answers

variable {allowed : List Status} (s : State)

@[simp] theorem answersIn_respond (st : Status) (d : BitVec 32) :
    AnswersIn (s.respond st d) allowed ↔ st ∈ allowed := by
  constructor
  · rintro ⟨_, _, hrsp, hmem⟩
    cases hrsp
    exact hmem
  · exact fun hmem => ⟨st, d, rfl, hmem⟩

@[simp] theorem answersIn_raise (e : SessionError) (det : Detail) :
    AnswersIn (s.raise e det) allowed ↔ e.status ∈ allowed := answersIn_respond _ _ _

@[simp] theorem answersIn_corrupt (det : Detail) :
    AnswersIn (s.corrupt det) allowed ↔ .corruptStream ∈ allowed := answersIn_raise _ _ _

@[simp] theorem answersIn_hold (n : Nat) : AnswersIn (s.hold n) allowed ↔ .outputFull ∈ allowed :=
  answersIn_respond _ _ _

@[simp] theorem answersIn_deliver (out : List Byte) : AnswersIn (s.deliver out) allowed ↔ .ok ∈ allowed :=
  answersIn_respond _ _ _

end Answers

/-- A wider set of statuses. -/
theorem AnswersIn.mono {t : State} {fewer more : List Status} (h : AnswersIn t fewer) (hsub : fewer ⊆ more) :
    AnswersIn t more := by
  obtain ⟨st, d, hrsp, hmem⟩ := h
  exact ⟨st, d, hrsp, hsub hmem⟩

/-! ## The bodies of FEED and FINISH -/

/-- The compressor's FEED raises no error (R243, R348). -/
theorem cFeed_answersIn (b : Byte) (s : State) : AnswersIn (cFeed b s) [.ok, .outputFull] := by
  rcases cFeed_cases b s with ⟨-, h⟩ | ⟨-, -, h⟩ | ⟨-, -, h⟩ <;> simp [h]

/-- The compressor's FINISH raises no error but that of a session in error (R246, R348). -/
theorem cFinish_answersIn (s : State) : AnswersIn (cFinish s) [.ok, .invalidState, .outputFull] := by
  rcases cFinish_cases s with ⟨-, h⟩ | ⟨-, -, h⟩ | ⟨-, -, h⟩ <;> simp [h, SessionError.status]

/-- The decompressor's FINISH pushes nothing, so it is never held (R290, R348). -/
theorem dFinish_answersIn (s : State) : AnswersIn (dFinish s) [.ok, .truncatedStream] := by
  rcases dFinish_cases s with ⟨-, h⟩ | ⟨-, h⟩ <;> simp [h, SessionError.status]

/-- A completed stream header: malformed, accepted, or of an unsupported class (R274). -/
theorem dStreamHeader_answersIn (g : List Byte) (s : State) :
    AnswersIn (dStreamHeader g s) [.ok, .corruptStream, .unsupportedBlockSize] := by
  rcases dStreamHeader_cases g s with ⟨-, h⟩ | ⟨-, -, h⟩ | ⟨-, -, h⟩ <;> simp [h, SessionError.status]

/-- A completed magic: accepted or malformed (R275). -/
theorem dMagic_answersIn (g : List Byte) (s : State) : AnswersIn (dMagic g s) [.ok, .corruptStream] := by
  rcases dMagic_cases g s with ⟨-, h⟩ | ⟨-, -, h⟩ | ⟨-, -, h⟩ | ⟨-, -, h⟩ <;> simp [h]

/-- A completed block header: accepted or malformed (R277). -/
theorem dLengths_answersIn (g : List Byte) (s : State) : AnswersIn (dLengths g s) [.ok, .corruptStream] := by
  rcases dLengths_cases g s with ⟨-, h⟩ | ⟨-, h⟩ <;> simp [h]

/-- A completed block body: malformed, held, or released; only here a FEED of a DECOMP session can be held (R280). -/
theorem dBody_answersIn (g : List Byte) (s : State) : AnswersIn (dBody g s) [.ok, .corruptStream, .outputFull] := by
  rcases dBody_cases g s with ⟨det, -, h⟩ | ⟨block, -, -, h⟩ | ⟨block, -, -, h⟩ <;> simp [h, releaseBlock]

/-- A completed footer: malformed or accepted (R286). -/
theorem dFooter_answersIn (g : List Byte) (s : State) : AnswersIn (dFooter g s) [.ok, .corruptStream] := by
  rcases dFooter_cases g s with ⟨-, h⟩ | ⟨-, -, h⟩ | ⟨-, -, h⟩ <;> simp [h]

/-- A FEED of a DECOMP session: a byte after the footer, a field completed, or a byte gathered (R272, R348). -/
theorem dFeed_answersIn (b : Byte) (s : State) :
    AnswersIn (dFeed b s) [.ok, .corruptStream, .unsupportedBlockSize, .outputFull] := by
  rcases dFeed_cases b s with ⟨-, h⟩ | ⟨-, -, h⟩ | ⟨-, -, h⟩ | ⟨-, -, h⟩ | ⟨-, -, h⟩ | ⟨-, -, h⟩ |
    ⟨-, -, -, -, -, h⟩ <;> rw [h]
  · simp [dDone]
  · exact (dBody_answersIn _ _).mono (by simp)
  · exact (dStreamHeader_answersIn _ _).mono (by simp)
  · exact (dMagic_answersIn _ _).mono (by simp)
  · exact (dLengths_answersIn _ _).mono (by simp)
  · exact (dFooter_answersIn _ _).mono (by simp)
  · simp

/-! ## The commands -/

/-- The two kinds of session (R23). -/
theorem comp_or_decomp {m : Mode} (h : m ≠ .none) : m = .comp ∨ m = .decomp := by
  cases m with
  | none => exact absurd rfl h
  | comp => exact .inl rfl
  | decomp => exact .inr rfl

/-- RDSR of an index that selects a register answers OK (R129, R348). -/
theorem exec_rdsr_answersIn {idx : Byte} {s t : State} (hwf : (Instr.rdsr idx).wf = true)
    (h : exec (.rdsr idx) s = .next t) : AnswersIn t [.ok] := by
  obtain ⟨v, hv⟩ := exists_statusRegister s (of_decide_eq_true hwf)
  rw [exec_rdsr_register hv] at h
  cases h
  simp

/-- Settles O22: a refusal answers InvalidState, which the table allows wherever there can be one, and an open session
answers as the body of its kind does. -/
theorem statusOfEachCommand : Obligations.StatusOfEachCommand := by
  refine ⟨fun s t w rest e hcmds hd h => ?_, fun i s t hwf h => ?_⟩
  · rw [illegalWordOnlyAnswered.1 s w rest e hcmds hd] at h
    cases h
    rfl
  · change AnswersIn t _
    cases i with
    | nop => simp [exec_nop_eq h]
    | dinit => simp [exec_dinit_eq h]
    | drop => simp [exec_drop_eq h]
    | reset => simp [exec_reset_eq h]
    | rdsr idx => exact exec_rdsr_answersIn hwf h
    | cinit cls => rcases exec_cinit_cases h with ⟨-, rfl⟩ | ⟨-, rfl⟩ <;> simp [SessionError.status]
    | pop => rcases exec_pop_cases h with ⟨-, rfl⟩ | ⟨b, rest, -, rfl⟩ <;> simp
    | feed b =>
      rcases exec_feed_cases h with ⟨hm, rfl⟩ | ⟨hm, -, rfl⟩ | ⟨hm, -, -, rfl⟩ | ⟨hm, -, -, rfl⟩
      · simp [hm]
      · rcases comp_or_decomp hm with hm | hm <;> simp [hm, SessionError.status]
      · rw [hm]
        exact (cFeed_answersIn b s).mono (by simp)
      · rw [hm]
        exact (dFeed_answersIn b s).mono (by simp)
    | feede =>
      rcases exec_feede_cases h with ⟨hm, rfl⟩ | ⟨hm, -, rfl⟩ | ⟨hm, -, -, rfl⟩
      · simp [hm]
      · rcases comp_or_decomp hm with hm | hm <;> simp [hm, SessionError.status]
      · rcases comp_or_decomp hm with hm | hm <;> simp [hm]
    | finish =>
      rcases exec_finish_cases h with ⟨hm, rfl⟩ | ⟨hm, -, rfl⟩ | ⟨hm, -, rfl⟩ | ⟨hm, -, rfl⟩
      · simp [hm]
      · rcases comp_or_decomp hm with hm | hm <;> simp [hm, SessionError.status]
      · rw [hm]
        exact cFinish_answersIn s
      · rw [hm]
        exact (dFinish_answersIn s).mono (by simp)

/-! ## Every state has a next state -/

/-- With no command presented the engine is idle (R356, R380). -/
theorem step_of_idle {s : State} (h : s.cmds = []) : step s = .next s := by
  simp only [step, h]

/-- Settles O8: an idle step and an illegal word have a next state, and so has every command. -/
theorem engineNeverStops : Obligations.EngineNeverStops := by
  refine ⟨fun s => ?_, fun _ => step_of_idle⟩
  rcases step_cases s with ⟨-, h⟩ | ⟨w, rest, i, -, -, h⟩ | ⟨w, rest, e, -, -, h⟩
  · exact ⟨s, h⟩
  · exact ⟨_, h.trans (exec_eq_next_after i _)⟩
  · exact ⟨_, h⟩

end Sys2Proof.Machine
